-- ==== Sys2Proof/Word.lean ====
section
/-! DEFINITION. The block's two word types (00_scope.md R12). -/

namespace Sys2Proof

/-- An 8-bit unsigned value (R12). -/
abbrev Byte := BitVec 8

/-- A 16-bit unsigned value, the content of one register (R12). -/
abbrev Word := BitVec 16

end Sys2Proof
end

