-- ==== Sys2Proof/Config.lean ====
section
/-! DEFINITION. The parameters of 00_scope.md R10 and R11, and the free values the spec leaves open. -/

namespace Sys2Proof

/-- ODD_PLACEMENT (R11, 42_sp_parser.md R220): where a trailing odd byte goes in its register. -/
inductive OddPlacement where
  | low
  | high
  deriving DecidableEq, Repr, Inhabited

/-- The parameters a model takes as arguments (R11), with the decided ones the spec says stay parameters.
They are fixed for one machine: no step changes them. -/
structure Params where
  /-- CMD_REG, a CTRL address (D4). -/
  cmdReg : Fin 32
  /-- STATUS_REG, a CTRL address (D5). -/
  statusReg : Fin 32
  /-- ERR_SHORT (D6). -/
  errShort : Word
  /-- ERR_CRC (D6). -/
  errCrc : Word
  /-- ERR_ALLOC (D6). -/
  errAlloc : Word
  /-- ERR_MARKERS (D6). -/
  errMarkers : Word
  /-- MB_SLAVE_ADDR (D8). -/
  mbSlaveAddr : Byte
  /-- SP_DAD (D31). -/
  spDad : Byte
  /-- SP_SAD (D31). -/
  spSad : Byte
  /-- SP_CMD_TABLE, the matched dispatch keys (D24). -/
  cmdTable : List Word
  /-- PERSIST with persistIndex, as pairs of bank address and index (D16). -/
  persist : List (Nat × Nat)
  /-- MB_BUF_MAX (D10). -/
  mbBufMax : Nat
  /-- SP_RX_MAX (D19). -/
  spRxMax : Nat
  /-- SP_TX_MAX (D31). -/
  spTxMax : Nat
  /-- RS, the record separator (D26, 90_conflicts.md C4). -/
  rs : Byte
  /-- ODD_PLACEMENT (D28). -/
  oddPlacement : OddPlacement
  /-- STATUS_ON_SUCCESS (D6, 42_sp_parser.md R221). -/
  statusOnSuccess : Option Word
  deriving DecidableEq, Repr, Inhabited

/-- The premises the spec puts on the parameters (10_state.md R39, R40) and its decided values (R11). -/
abbrev Params.Ok (p : Params) : Prop :=
  p.cmdReg ≠ p.statusReg ∧
  [p.errShort, p.errCrc, p.errAlloc, p.errMarkers].Nodup ∧
  p.mbBufMax = 256 ∧ p.spRxMax = 512 ∧ p.spTxMax = 512 ∧
  p.rs = 0x0C#8 ∧ p.oddPlacement = .low ∧ p.statusOnSuccess = none

/-! ## Values the source fixes or the spec decided (R10, R11) -/

/-- BANK_SIZE (R10). -/
abbrev Config.bankSize : Nat := 224
/-- First register of READW (10_state.md R35). -/
abbrev Config.readwBase : Nat := 0x20
/-- First register of WRITEW (10_state.md R35). -/
abbrev Config.writewBase : Nat := 0x80
/-- SENTINEL (R10). -/
abbrev Config.sentinel : Word := 0xFFFF#16
/-- SOH (R10). -/
abbrev Config.soh : Byte := 0x01#8
/-- STX (R10). -/
abbrev Config.stx : Byte := 0x02#8
/-- ETX (R10). -/
abbrev Config.etx : Byte := 0x03#8
/-- ISI (R10). -/
abbrev Config.isi : Byte := 0x1F#8
/-- DLE (R10). -/
abbrev Config.dle : Byte := 0x10#8
/-- SYNC (R10). -/
abbrev Config.sync : Byte := 0xFF#8
/-- HT (R11, D26). -/
abbrev Config.ht : Byte := 0x09#8
/-- MAX_FIELDS (R10). -/
abbrev Config.maxFields : Nat := 20
/-- Largest template id (R10 TEMPLATE_IDS). -/
abbrev Config.maxTemplateId : Nat := 41
/-- TEMPLATE_REC, bytes of a record (R10). -/
abbrev Config.recordSize : Nat := 96
/-- MB_MIN_LEN (R11, D9). -/
abbrev Config.mbMinLen : Nat := 4
/-- The Modbus frame maximum, MB_BUF_MAX's decided value (R11, D10). -/
abbrev Config.mbFrameMax : Nat := 256
/-- MB_MAX_READ_QTY (R11, D13). -/
abbrev Config.mbMaxReadQty : Nat := 125
/-- MB_MAX_WRITE_QTY (R11, D14). -/
abbrev Config.mbMaxWriteQty : Nat := 123
/-- SP_MIN_RAW (R11, D19). -/
abbrev Config.spMinRaw : Nat := 11
/-- The SP frame maximum, SP_RX_MAX's decided value (R11, D19). -/
abbrev Config.spFrameMax : Nat := 512
/-- SP_HDR_MIN (R11, D23). -/
abbrev Config.spHdrMin : Nat := 7
/-- FIELD_BASE (R11, D27). -/
abbrev Config.fieldBase : Nat := 0x20
/-- FIELD_END (R11, D27). -/
abbrev Config.fieldEnd : Nat := 0x7F
/-- RAW_BASE (R11, D29). -/
abbrev Config.rawBase : Nat := 0x20
/-- RAW_REGS (R11, D29). -/
abbrev Config.rawRegs : Nat := 96

/-! ## Free values: nothing in Lean can evaluate them or prove a value of them -/

/-- The OPEN parameters of the machine after reset (R11), before the premises are looked at. -/
opaque Config.drawn : Params

/-- `bankInit(a)` of 10_state.md R55: the content of register `a` after the reset that takes draw `k`. -/
opaque Config.bankInit (k a : Nat) : Word

/-- Whether the TemplateRead that takes draw `k` returns err (10_state.md R58, D45). -/
opaque Config.templateReadFails (k : Nat) : Bool

/-- What padDiscount's own pattern matching gives, before its law is put on it (43_modbus.md R274, D17). -/
opaque Config.padDiscountDraw (d : List Byte) : Nat

/-- The template id of a TAG_EXTRACT record where no command is active: the spec states none (log 12). -/
opaque Config.unstatedTid (k : Nat) : Byte

/-- One legal set of parameters (configuration EX of 95_test_vectors.md). It shows that legal parameters exist,
and stands in for a draw that breaks the premises. -/
def Config.legalParams : Params where
  cmdReg := 0
  statusReg := 1
  errShort := 0xE001#16
  errCrc := 0xE002#16
  errAlloc := 0xE003#16
  errMarkers := 0xE004#16
  mbSlaveAddr := 0x01#8
  spDad := 0x00#8
  spSad := 0x40#8
  cmdTable := [0x1D14#16]
  persist := (List.range 16).map fun i => (0x10 + i, i)
  mbBufMax := 256
  spRxMax := 512
  spTxMax := 512
  rs := 0x0C#8
  oddPlacement := .low
  statusOnSuccess := none

/-- DESIGN CHOICE (log 5), safe. The parameters of the machine after reset: any parameters that meet the spec's
premises. A draw that breaks them is replaced by a legal one, so the values this can take are exactly the legal
ones. -/
def Config.params : Params :=
  if Config.drawn.Ok then Config.drawn else Config.legalParams

/-- padDiscount (43_modbus.md R274): any total function of the data with `0 <= padDiscount(d) <= len(d)`. -/
def Config.padDiscount (d : List Byte) : Nat :=
  min (Config.padDiscountDraw d) d.length

end Sys2Proof
end

