-- ==== Sys2Proof/Syntax.lean ====
section
/-! DEFINITION. The instruction set: one constructor of `Instr` per row of spec/opcode_table.json, and the names
the other layers share (markers, namespaces, error causes, packets). -/

namespace Sys2Proof

/-- The four reserved marker bytes (00_scope.md R14), each of which an ESC token escapes (30_encoding.md R114). -/
inductive Marker where
  | soh
  | stx
  | etx
  | isi
  deriving DecidableEq, Repr

/-- A token of a stuffed byte stream (30_encoding.md R114). -/
inductive Token where
  | esc (m : Marker)
  | literal (b : Byte)
  deriving DecidableEq, Repr

/-- The namespaces of the Template Store (10_state.md R58). -/
inductive Ns where
  | req
  | rsp
  deriving DecidableEq, Repr

/-- The Modbus exception codes used (43_modbus.md R260). -/
inductive MbExc where
  | illegalFunction
  | illegalAddress
  | illegalValue
  deriving DecidableEq, Repr

/-- The functions of link A's opcode map (30_encoding.md R110). -/
inductive MbFunction where
  | readHolding
  | writeSingle
  | writeMultiple
  | other
  deriving DecidableEq, Repr

/-- The five classes of the error taxonomy (60_exceptions.md R400). -/
inductive ErrorClass where
  | format
  | integrity
  | protocol
  | resource
  | storage
  deriving DecidableEq, Repr

/-- What the Modbus engine can find wrong with a frame (60_exceptions.md R401, R402). -/
inductive MbError where
  /-- A byte for a full buffer (43_modbus.md R252). -/
  | overflow
  /-- n below MB_MIN_LEN (43_modbus.md R255). -/
  | tooShort
  /-- Another slave's address (R256). -/
  | otherSlave
  /-- CRC mismatch (R257). -/
  | badCrc
  /-- The function's own length check (R261, R265, R269). -/
  | badLength
  /-- Function code not 0x03, 0x06, 0x10 (R259). -/
  | illegalFunction
  /-- Range or permission (R262, R266, R272). -/
  | illegalAddress
  /-- Quantity, byte count or frame length (R263, R270, R271). -/
  | illegalValue
  deriving DecidableEq, Repr

/-- What the SP engine can find wrong with a frame or a request, with a status code (60_exceptions.md R403). -/
inductive SpError where
  /-- Receive buffer overflow (42_sp_parser.md R203). -/
  | overflow
  /-- Shorter than SP_MIN_RAW (R202). -/
  | shortFrame
  /-- DESTUFF answered FormatError (R205). -/
  | badMarkers
  /-- Fewer than two bytes after ETX (R206). -/
  | crcMissing
  /-- SP CRC mismatch (R207). -/
  | badCrc
  /-- SOH..ETX shorter than SP_HDR_MIN (R208). -/
  | shortHeader
  /-- The first logical byte is not SOH (R208). -/
  | notSoh
  /-- STX before index 5 (R208). -/
  | earlyStx
  /-- A stuffed request over SP_TX_MAX (44_sp_link.md R305). -/
  | requestTooLong
  deriving DecidableEq, Repr

/-- What the SP engine can find wrong with a frame or a request, without a status code (60_exceptions.md R404, R406). -/
inductive SpDrop where
  /-- The dispatch key is not in SP_CMD_TABLE and raw mode does not apply (42_sp_parser.md R214). -/
  | unmatchedKey
  /-- A template id over 41 (44_sp_link.md R303). -/
  | idOutOfRange
  /-- The template read answered err (R303). -/
  | readFailed
  /-- LEN = 0xFF (R303). -/
  | absentTemplate
  /-- LEN 0x60-0xFE (R303). -/
  | badTemplateLength
  deriving DecidableEq, Repr

/-- The errors that shorten a result and let the frame complete (60_exceptions.md R405). -/
inductive Degraded where
  /-- More than MAX_FIELDS records (42_sp_parser.md R216). -/
  | tooManyRecords
  /-- A field that does not fit the window (R217). -/
  | windowExhausted
  /-- A raw payload over 192 bytes (R219). -/
  | rawTruncated
  deriving DecidableEq, Repr

/-- Every error the spec names (60_exceptions.md R401 to R406). -/
inductive BlockError where
  | modbus (e : MbError)
  | sp (e : SpError)
  | dropped (e : SpDrop)
  | degraded (d : Degraded)
  /-- A config `set` that failed, which the block does not check (R406, 43_modbus.md R268). -/
  | configSet
  deriving DecidableEq, Repr

/-- The fields PARSE_HEADER and R210 take from an accepted frame (42_sp_parser.md R209, R210). -/
structure SpFields where
  dad : Byte
  sad : Byte
  isi : Byte
  fnc : Byte
  ext : List Byte
  payload : List Byte
  deriving DecidableEq, Repr

/-- What a template record says (30_encoding.md R121). -/
inductive RecordView where
  /-- LEN = 0xFF. -/
  | absent
  /-- LEN 0x60-0xFE, a StorageError. -/
  | badLength
  /-- LEN 0x00-0x5F. -/
  | payload (p : List Byte)
  deriving DecidableEq, Repr

/-- How a packet is delivered: in one of the encoding spaces of 30_encoding.md (R100), or under the name the spec
gives an event, a host step, a route or a unit operation (R117, R120). STUFF's kind carries the capacity, a number of any
size (00_scope.md R12). -/
inductive Kind where
  | mbRequest
  | mbResponse
  | spToken
  | spFrame
  | spFields
  | spRaw
  | spUnmatched
  | cmdWord
  | templateRecord
  | stuff (cap : Nat)
  | destuff
  | crcMb
  | crcSp
  | mbRxByte
  | mbSilence
  | spRxByte
  | spSilence
  | spPoll
  | spRepeatDue
  | hostRd
  | hostWr
  | hostTmplWr
  | hostRdActual
  | reset
  deriving DecidableEq, Repr

/-- DESIGN CHOICE (log 1). One delivery: its kind, and the bytes of its encoding or of its operands. -/
structure Packet where
  kind : Kind
  bytes : List Byte
  deriving DecidableEq, Repr

/-- Why a packet is no encoding of the opcode table. -/
inductive DecodeError where
  /-- No byte of a frame was received, or none is left after an overflow: a silence is a no-op then
  (43_modbus.md R253, 42_sp_parser.md R201). -/
  | nothingReceived
  /-- A request frame that fails R255 or R257 (never `otherSlave`: the address needs the parameters). -/
  | mbFrame (e : MbError)
  /-- Bytes that are no response frame of R105 to R108. -/
  | notAResponse
  /-- Bytes that are not one token of R114. -/
  | notAToken
  /-- A link-B frame that fails R202 to R209. -/
  | spFrame (e : SpError)
  /-- Operand bytes that do not have the event's or operation's form. -/
  | badOperands
  deriving DecidableEq, Repr

/-- The instruction set (00_scope.md R3): one constructor per row of spec/opcode_table.json, in its order. -/
inductive Instr where
  /-- MB_FC03: `data` is the frame between its function code and its CRC (30_encoding.md R102). -/
  | mbFc03 (addr : Byte) (data : List Byte)
  /-- MB_FC06 (R103). -/
  | mbFc06 (addr : Byte) (data : List Byte)
  /-- MB_FC10 (R104). -/
  | mbFc10 (addr : Byte) (data : List Byte)
  /-- MB_ILLEGAL: any other function code (R110, R111). -/
  | mbIllegal (addr fc : Byte) (data : List Byte)
  /-- MB_EXCEPTION_RSP: `fn` is bits 6:0 of the request's function code (R108). -/
  | mbExceptionRsp (addr : Byte) (fn : BitVec 7) (code : MbExc)
  /-- MB_FC03_RSP (R105). -/
  | mbFc03Rsp (addr : Byte) (values : List Word)
  /-- MB_FC06_RSP (R106). -/
  | mbFc06Rsp (addr : Byte) (reg val : Word)
  /-- MB_FC10_RSP (R107). -/
  | mbFc10Rsp (addr : Byte) (start qty : Word)
  /-- ESC_SOH (R114). -/
  | escSoh
  /-- ESC_STX (R114). -/
  | escStx
  /-- ESC_ETX (R114). -/
  | escEtx
  /-- ESC_ISI (R114). -/
  | escIsi
  /-- LITERAL (R114, R115). -/
  | literal (b : Byte)
  /-- SP_FRAME: the fields of a logical frame (R112, R113). -/
  | spFrame (dad sad isi fnc : Byte) (ext payload : List Byte)
  /-- SP_FIELDS (R117, 42_sp_parser.md R212). -/
  | spFields (payload : List Byte)
  /-- SP_RAW (R117, 42_sp_parser.md R213). -/
  | spRaw (payload : List Byte)
  /-- SP_UNMATCHED (R117, 42_sp_parser.md R214). -/
  | spUnmatched (payload : List Byte)
  /-- CMD_SENTINEL: the command word 0xFFFF (R119). -/
  | cmdSentinel
  /-- CMD_ISSUE_RAW: MODE = 0xFF (R119). -/
  | cmdIssueRaw (tid : Byte)
  /-- CMD_ISSUE: MODE not 0xFF (R119). -/
  | cmdIssue (mode tid : Byte)
  /-- TEMPLATE_RECORD (R121). -/
  | templateRecord (bytes : List Byte)
  /-- STUFF(x, cap) (40_codec.md R151). -/
  | stuff (cap : Nat) (x : List Byte)
  /-- DESTUFF(buf) (40_codec.md R153). -/
  | destuff (buf : List Byte)
  /-- CRC_MB(x) (41_crc.md R170). -/
  | crcMb (x : List Byte)
  /-- CRC_SP(x) (41_crc.md R172). -/
  | crcSp (x : List Byte)
  /-- MB_RX_BYTE(b) (43_modbus.md R251). -/
  | mbRxByte (b : Byte)
  /-- MB_SILENCE (43_modbus.md R253, R254). -/
  | mbSilence
  /-- SP_RX_BYTE(b) (44_sp_link.md R300). -/
  | spRxByte (b : Byte)
  /-- SP_SILENCE (42_sp_parser.md R200). -/
  | spSilence
  /-- SP_POLL (44_sp_link.md R301). -/
  | spPoll
  /-- SP_REPEAT_DUE (44_sp_link.md R308). -/
  | spRepeatDue
  /-- HOST_RD(a) (10_state.md R61). -/
  | hostRd (a : Fin 224)
  /-- HOST_WR(a, v) (R61). -/
  | hostWr (a : Fin 224) (v : Word)
  /-- HOST_TMPL_WR(ns, id, rec) (R61). -/
  | hostTmplWr (ns : Ns) (id : Fin 42) (bytes : List Byte)
  /-- HOST_RD_ACTUAL (R61). -/
  | hostRdActual
  /-- RESET (70_reset_and_hazards.md R450). -/
  | reset
  deriving DecidableEq, Repr

end Sys2Proof
end

