-- ==== Sys2Proof/Machine/Operands.lean ====
section
/-! DEFINITION. Bytes and words, and the operand forms the block takes apart or puts together
(00_scope.md R13, 30_encoding.md R109, R119, R121, 42_sp_parser.md R220). -/

namespace Sys2Proof.Machine

/-- `be16(a, b)` (R13). -/
def be16 (hi lo : Byte) : Word := hi ++ lo

/-- `hi8(w)` (R13). -/
def hi8 (w : Word) : Byte := w.extractLsb' 8 8

/-- `lo8(w)` (R13). -/
def lo8 (w : Word) : Byte := w.extractLsb' 0 8

/-- `xs[i]` (R14). The callers check the length; beyond the end it answers 0, which no rule reads. -/
def byteAt (xs : List Byte) (i : Nat) : Byte := xs.getD i 0#8

/-- `xs[i..j)` (R14). -/
def slice (xs : List Byte) (i j : Nat) : List Byte := (xs.take j).drop i

/-- The big-endian 16-bit field at byte `i` of a frame (30_encoding.md R109, 20_memory.md R74). -/
def fieldAt (f : List Byte) (i : Nat) : Word := be16 (byteAt f i) (byteAt f (i + 1))

/-- The bytes of a word, high byte first (20_memory.md R74). -/
def wordBytes (w : Word) : List Byte := [hi8 w, lo8 w]

/-- The bytes of words, high byte first (43_modbus.md R264). -/
def wordsBytes (ws : List Word) : List Byte := ws.flatMap wordBytes

/-- `ceil(m / 2)`: the registers m bytes take (42_sp_parser.md R220). -/
def halfUp (m : Nat) : Nat := (m + 1) / 2

/-- The word a trailing odd byte makes (42_sp_parser.md R220, D28). -/
def oddWord : OddPlacement → Byte → Word
  | .low, b => be16 0x00#8 b
  | .high, b => be16 b 0x00#8

/-- PACK2 (42_sp_parser.md R220). -/
def pack2 (odd : OddPlacement) : List Byte → List Word
  | [] => []
  | [b] => [oddWord odd b]
  | a :: b :: rest => be16 a b :: pack2 odd rest

/-- The big-endian words of a 0x10 request's data (43_modbus.md R273); the data's length is even there. -/
def dataWords (data : List Byte) : List Word := pack2 .low data

/-- Membership in the marker set, by which marker the byte is (00_scope.md R14). -/
def markerOf (b : Byte) : Option Marker :=
  if b = Config.soh then some .soh
  else if b = Config.stx then some .stx
  else if b = Config.etx then some .etx
  else if b = Config.isi then some .isi
  else none

/-- The byte of a marker (00_scope.md R10). -/
def markerByte : Marker → Byte
  | .soh => Config.soh
  | .stx => Config.stx
  | .etx => Config.etx
  | .isi => Config.isi

/-- The value of an exception code (43_modbus.md R260). -/
def excByte : MbExc → Byte
  | .illegalFunction => 0x01#8
  | .illegalAddress => 0x02#8
  | .illegalValue => 0x03#8

/-- The exception code of a byte (30_encoding.md R108). -/
def excOf (b : Byte) : Option MbExc :=
  if b = 0x01#8 then some .illegalFunction
  else if b = 0x02#8 then some .illegalAddress
  else if b = 0x03#8 then some .illegalValue
  else none

/-- Byte 1 of an exception response: the function code with bit 7 set (30_encoding.md R108, D43). -/
def exceptionFc (fn : BitVec 7) : Byte := 1#1 ++ fn

/-- Bits 6:0 of a function code, which is all of it an exception response carries (R108). -/
def fcLow (fc : Byte) : BitVec 7 := fc.extractLsb' 0 7

/-- One received byte in link A's buffer: the byte that overflows empties it (43_modbus.md R251, R252). -/
def framerByte (max : Nat) (buf : List Byte) (b : Byte) : List Byte := if buf.length = max then [] else buf ++ [b]

/-- What link A's buffer holds once `f` was received from Idle with no silence in it: after an overflow the rest is
accumulated anew (70_reset_and_hazards.md R462). -/
def framed (max : Nat) (f : List Byte) : List Byte := f.foldl (framerByte max) []

/-- The function decode of link A: all 8 bits are compared (30_encoding.md R110). -/
def decodeFunction (fc : Byte) : MbFunction :=
  if fc = 0x03#8 then .readHolding
  else if fc = 0x06#8 then .writeSingle
  else if fc = 0x10#8 then .writeMultiple
  else .other

/-- MODE of a command word (10_state.md R37). -/
def cmdMode (c : Word) : Byte := hi8 c

/-- TID of a command word (R37). -/
def cmdTid (c : Word) : Byte := lo8 c

/-- The dispatch key (30_encoding.md R116). -/
def dispatchKey (reqFnc rspFnc : Byte) : Word := be16 reqFnc rspFnc

/-- What a template record says (30_encoding.md R121). -/
def viewRecord (r : List Byte) : RecordView :=
  let len := (byteAt r 0).toNat
  if len = 0xFF then .absent
  else if len > 95 then .badLength
  else .payload (slice r 1 (1 + len))

end Sys2Proof.Machine
end

