-- ==== Sys2Proof/Machine/Crc.lean ====
section
/-! DEFINITION. The CRC engines (41_crc.md). -/

namespace Sys2Proof.Machine

/-- One of the eight shifts of CRC_MB's inner loop (R170). -/
def crcMbBit (c : Word) : Word :=
  if c.getLsbD 0 then (c >>> 1) ^^^ 0xA001#16 else c >>> 1

/-- One byte of CRC_MB (R170). -/
def crcMbByte (c : Word) (b : Byte) : Word :=
  Nat.iterate crcMbBit 8 (c ^^^ b.setWidth 16)

/-- CRC_MB(x) (R170). -/
def crcMb (x : List Byte) : Word := x.foldl crcMbByte 0xFFFF#16

/-- One of the eight shifts of CRC_SP's inner loop (R172). -/
def crcSpBit (c : Word) : Word :=
  if c.getLsbD 15 then (c <<< 1) ^^^ 0x1021#16 else c <<< 1

/-- One byte of CRC_SP (R172). -/
def crcSpByte (c : Word) (b : Byte) : Word :=
  Nat.iterate crcSpBit 8 (c ^^^ (b.setWidth 16 <<< 8))

/-- CRC_SP(x) (R172). -/
def crcSp (x : List Byte) : Word := x.foldl crcSpByte 0x0000#16

/-- The CRC field of link A, low byte first (R171). -/
def crcMbField (x : List Byte) : List Byte := [lo8 (crcMb x), hi8 (crcMb x)]

/-- The CRC field of link B, high byte first (R173). -/
def crcSpField (x : List Byte) : List Byte := [hi8 (crcSp x), lo8 (crcSp x)]

/-- Bytes followed by their link-A CRC (30_encoding.md R101). -/
def withCrcMb (x : List Byte) : List Byte := x ++ crcMbField x

/-- The CRC check of a received link-A frame of length at least 2 (41_crc.md R171, 43_modbus.md R257). -/
def crcMbPasses (f : List Byte) : Bool :=
  crcMb (f.take (f.length - 2)) = be16 (byteAt f (f.length - 1)) (byteAt f (f.length - 2))

end Sys2Proof.Machine
end

