-- ==== Sys2Proof/Machine/Codec.lean ====
section
/-! DEFINITION. The Frame Codec (40_codec.md): stuffer, destuffer and their tokens (30_encoding.md R114, R115). -/

namespace Sys2Proof.Machine

/-- The logical byte of a token (R114). -/
def tokenByte : Token → Byte
  | .esc m => markerByte m
  | .literal b => b

/-- The wire bytes of a token (R114). -/
def tokenWire : Token → List Byte
  | .esc m => [Config.dle, markerByte m]
  | .literal b => [b]

/-- The token the stuffer emits for a logical byte: an ESC pair for a marker, else the byte (R151). -/
def stuffToken (b : Byte) : Token :=
  match markerOf b with
  | some m => .esc m
  | none => .literal b

/-- STUFF's output before its capacity check (R151). -/
def stuffBytes (x : List Byte) : List Byte := x.flatMap fun b => tokenWire (stuffToken b)

/-- STUFF(x, cap): `none` is CAPACITY, with no output (R151, R152). -/
def stuff (x : List Byte) (cap : Nat) : Option (List Byte) :=
  if (stuffBytes x).length > cap then none else some (stuffBytes x)

/-- The tokens of a stuffed byte stream, from a token boundary (30_encoding.md R115). -/
def tokens : List Byte → List Token
  | [] => []
  | [b] => [.literal b]
  | a :: b :: rest =>
    if a = Config.dle then
      match markerOf b with
      | some m => .esc m :: tokens rest
      | none => .literal a :: tokens (b :: rest)
    else .literal a :: tokens (b :: rest)

/-- DESTUFF's working values, which last only for one call (40_codec.md R153, 10_state.md R32). -/
structure DestuffPass where
  out : List Byte
  stxs : List Nat
  etxs : List Nat
  deriving DecidableEq, Repr

/-- DESTUFF's work for one token: the logical byte, and the compacted position of an escaped STX or ETX (R153). -/
def destuffToken (p : DestuffPass) (t : Token) : DestuffPass :=
  { out := p.out ++ [tokenByte t]
    stxs := if t = .esc .stx then p.stxs ++ [p.out.length] else p.stxs
    etxs := if t = .esc .etx then p.etxs ++ [p.out.length] else p.etxs }

/-- DESTUFF's pass over a whole buffer (R153). -/
def destuffPass (buf : List Byte) : DestuffPass := (tokens buf).foldl destuffToken ⟨[], [], []⟩

/-- DESTUFF's result: the compacted bytes, and the positions of STX and ETX where the verdict is OK.
`marks = none` is FormatError (R153). -/
structure Destuffed where
  out : List Byte
  marks : Option (Nat × Nat)
  deriving DecidableEq, Repr

/-- The marker check (R154). -/
def markerCheck (p : DestuffPass) : Option (Nat × Nat) :=
  match p.stxs, p.etxs with
  | [stx], [etx] => if stx < etx then some (stx, etx) else none
  | _, _ => none

/-- DESTUFF(buf) (R153). -/
def destuff (buf : List Byte) : Destuffed :=
  let p := destuffPass buf
  { out := p.out, marks := markerCheck p }

end Sys2Proof.Machine
end

