-- ==== Sys2Proof/Machine/SpParse.lean ====
section
/-! DEFINITION. What the SP engine reads from bytes and from a payload, with no block state
(42_sp_parser.md R200 to R210, R215). -/

namespace Sys2Proof.Machine

/-- STRIP_SYNC: drops the longest run of leading 0xFF bytes (R204). -/
def stripSync (raw : List Byte) : List Byte := raw.dropWhile (· = Config.sync)

/-- R206 to R210 on a compacted buffer whose markers stand at `stx` and `etx`: CRC field presence, CRC, header
length, SOH, STX position, in that order (60_exceptions.md R409), then the fields. -/
def parseLogical (l : List Byte) (stx etx : Nat) : Except SpError SpFields :=
  if l.length < etx + 3 then .error .crcMissing
  else if crcSp (l.take (etx + 1)) ≠ be16 (byteAt l (etx + 1)) (byteAt l (etx + 2)) then .error .badCrc
  else if etx + 1 < Config.spHdrMin then .error .shortHeader
  else if byteAt l 0 ≠ Config.soh then .error .notSoh
  else if stx < 5 then .error .earlyStx
  else .ok
    { dad := byteAt l 1
      sad := byteAt l 2
      isi := byteAt l 3
      fnc := byteAt l 4
      ext := slice l 5 stx
      payload := slice l (stx + 1) etx }

/-- The frame checks of one received frame, in the order of R200 from its length check on. -/
def parseSpFrame (raw : List Byte) : Except SpError SpFields :=
  if raw.length < Config.spMinRaw then .error .shortFrame
  else
    let d := destuff (stripSync raw)
    match d.marks with
    | none => .error .badMarkers
    | some (stx, etx) => parseLogical d.out stx etx

/-- The logical bytes SOH..ETX of a frame with the given fields (30_encoding.md R113). -/
def logicalFrame (p : SpFields) : List Byte :=
  [Config.soh, p.dad, p.sad, p.isi, p.fnc] ++ p.ext ++ [Config.stx] ++ p.payload ++ [Config.etx]

/-- The token a byte inside a frame is sent as: what STUFF emits, but an STX or ETX that is not the frame's own goes
unescaped, as a receiver requires (70_reset_and_hazards.md R465; log 7). -/
def innerToken (b : Byte) : Token :=
  if b = Config.stx ∨ b = Config.etx then .literal b else stuffToken b

/-- The tokens of a frame from SOH through ETX (30_encoding.md R112, R113). -/
def frameTokens (p : SpFields) : List Token :=
  [.esc .soh] ++ ([p.dad, p.sad, p.isi, p.fnc] ++ p.ext).map innerToken ++ [.esc .stx] ++
    p.payload.map innerToken ++ [.esc .etx]

/-- An SP frame on the wire (30_encoding.md R112): sync, the stuffed bytes, the CRC not stuffed. -/
def spWire (p : SpFields) : List Byte :=
  [Config.sync, Config.sync] ++ (frameTokens p).flatMap tokenWire ++ crcSpField (logicalFrame p)

/-- SEGMENT's loop: `cur` is the record being collected (R215). -/
def segmentGo (rs : Byte) (cur : List Byte) : List Byte → List (List Byte)
  | [] => if cur = [] then [] else [cur]
  | b :: bs => if b = rs then cur :: segmentGo rs [] bs else segmentGo rs (cur ++ [b]) bs

/-- SEGMENT(p): the records of a payload (R215). -/
def segment (rs : Byte) (p : List Byte) : List (List Byte) := segmentGo rs [] p

/-- The bytes up to the first HT, and those after it (R215). -/
def splitHt (r : List Byte) : List Byte × List Byte :=
  (r.takeWhile (· ≠ Config.ht), (r.dropWhile (· ≠ Config.ht)).drop 1)

/-- SUBFIELDS(r): the value, units and timestamp spans of a record (R215). They change no state. -/
def subfields (r : List Byte) : List Byte × List Byte × List Byte :=
  let (value, rest) := splitHt r
  let (units, timestamp) := splitHt rest
  (value, units, timestamp)

end Sys2Proof.Machine
end

