-- ==== Sys2Proof/WellFormed.lean ====
section
/-! DEFINITION. Which terms of `Instr` are forms of the opcode table: every length and exclusion its rows state. -/

namespace Sys2Proof

open Machine

/-- A Modbus frame fits the receive buffer's maximum (43_modbus.md R252, D10): two header and two CRC bytes around
`data`. -/
def frameFits (data : List Byte) : Bool := data.length + 4 ≤ Config.mbFrameMax

/-- No DLE stands directly before an STX or ETX byte: as wire bytes the two would be an escape pair, and escaped
they would count as the frame's own marker (30_encoding.md R115, 70_reset_and_hazards.md R465). -/
def textReadable : List Byte → Bool
  | a :: b :: rest => ¬ (a = Config.dle ∧ (b = Config.stx ∨ b = Config.etx)) && textReadable (b :: rest)
  | [_] => true
  | [] => true

/-- The CRC field does not form an escape pair (70_reset_and_hazards.md R466). -/
def crcSpReadable (logical : List Byte) : Bool :=
  ¬ (hi8 (crcSp logical) = Config.dle ∧ (markerOf (lo8 (crcSp logical))).isSome)

/-- The frames that can be sent so that a receiver accepts them (40_codec.md R153): header and payload that can be
read back, a CRC field that is no escape pair, and no more wire bytes than the receive buffer holds
(42_sp_parser.md R203, D19). -/
def spFrameOk (p : SpFields) : Bool :=
  textReadable ([p.dad, p.sad, p.isi, p.fnc] ++ p.ext) && textReadable p.payload &&
  crcSpReadable (logicalFrame p) &&
  (spWire p).length ≤ Config.spFrameMax

/-- A template record has 96 bytes (30_encoding.md R121). -/
def recordOk (bytes : List Byte) : Bool := bytes.length = Config.recordSize

/-- The well-formed instructions. -/
def Instr.wf : Instr → Bool
  | .mbFc03 _ data => frameFits data
  | .mbFc06 _ data => frameFits data
  | .mbFc10 _ data => frameFits data
  | .mbIllegal _ fc data => decodeFunction fc = .other && frameFits data
  | .mbExceptionRsp _ _ _ => true
  | .mbFc03Rsp _ values => 1 ≤ values.length && values.length ≤ Config.mbMaxReadQty
  | .mbFc06Rsp _ _ _ => true
  | .mbFc10Rsp _ _ _ => true
  | .escSoh => true
  | .escStx => true
  | .escEtx => true
  | .escIsi => true
  | .literal _ => true
  | .spFrame dad sad isi fnc ext payload => spFrameOk ⟨dad, sad, isi, fnc, ext, payload⟩
  | .spFields _ => true
  | .spRaw _ => true
  | .spUnmatched _ => true
  | .cmdSentinel => true
  | .cmdIssueRaw tid => tid ≠ 0xFF#8
  | .cmdIssue mode _ => mode ≠ 0xFF#8
  | .templateRecord bytes => recordOk bytes
  | .stuff _ _ => true
  | .destuff _ => true
  | .crcMb _ => true
  | .crcSp _ => true
  | .mbRxByte _ => true
  | .mbSilence => true
  | .spRxByte _ => true
  | .spSilence => true
  | .spPoll => true
  | .spRepeatDue => true
  | .hostRd _ => true
  | .hostWr _ _ => true
  | .hostTmplWr _ _ bytes => recordOk bytes
  | .hostRdActual => true
  | .reset => true

end Sys2Proof
end

