-- ==== Sys2Proof/Decode.lean ====
section
/-! DEFINITION. From a delivered packet to an instruction, total and rejecting by name, and back.
The frame, token and word encodings are those of 30_encoding.md; the operand bytes of events, host steps, routes
and unit operations, to which the spec gives only names, are the model's (DESIGN CHOICE, log 1). -/

namespace Sys2Proof

open Machine

/-- A request frame of link A as a list of bytes (30_encoding.md R101 to R104). -/
def requestFrame (addr fc : Byte) (data : List Byte) : List Byte := withCrcMb ([addr, fc] ++ data)

/-- MB_EXCEPTION_RSP's frame (30_encoding.md R108, 43_modbus.md R260). -/
def exceptionFrame (addr : Byte) (fn : BitVec 7) (code : MbExc) : List Byte :=
  withCrcMb [addr, exceptionFc fn, excByte code]

/-- MB_FC03_RSP's frame (30_encoding.md R105). -/
def fc03Frame (addr : Byte) (values : List Word) : List Byte :=
  withCrcMb ([addr, 0x03#8, BitVec.ofNat 8 (2 * values.length)] ++ wordsBytes values)

/-- MB_FC06_RSP's frame (30_encoding.md R106): the layout of the request (R103). -/
def fc06Frame (addr : Byte) (reg val : Word) : List Byte :=
  withCrcMb ([addr, 0x06#8] ++ wordBytes reg ++ wordBytes val)

/-- MB_FC10_RSP's frame (30_encoding.md R107). -/
def fc10Frame (addr : Byte) (start qty : Word) : List Byte :=
  withCrcMb ([addr, 0x10#8] ++ wordBytes start ++ wordBytes qty)

/-- A frame as the function decoder of link A sees it (30_encoding.md R110). -/
def decodeFramed (f : List Byte) : Except DecodeError Instr :=
  if f = [] then .error .nothingReceived
  else if f.length < Config.mbMinLen then .error (.mbFrame .tooShort)
  else if ¬ crcMbPasses f then .error (.mbFrame .badCrc)
  else
    let addr := byteAt f 0
    let fc := byteAt f 1
    let data := slice f 2 (f.length - 2)
    match decodeFunction fc with
    | .readHolding => .ok (.mbFc03 addr data)
    | .writeSingle => .ok (.mbFc06 addr data)
    | .writeMultiple => .ok (.mbFc10 addr data)
    | .other => .ok (.mbIllegal addr fc data)

/-- The bytes received on link A between two silences, as the framer leaves them (43_modbus.md R251 to R254). -/
def decodeRequest (bytes : List Byte) : Except DecodeError Instr := decodeFramed (framed Config.mbFrameMax bytes)

/-- A 0x03 response whose byte count agrees with its length (R105). -/
def decodeFc03Rsp (f : List Byte) : Except DecodeError Instr :=
  let values := dataWords (slice f 3 (f.length - 2))
  if f.length = 5 + 2 * values.length ∧ (byteAt f 2).toNat = 2 * values.length ∧
      1 ≤ values.length ∧ values.length ≤ Config.mbMaxReadQty then
    .ok (.mbFc03Rsp (byteAt f 0) values)
  else .error .notAResponse

/-- A response frame of link A (30_encoding.md R105 to R108). -/
def decodeResponse (f : List Byte) : Except DecodeError Instr :=
  if f.length < 5 ∨ ¬ crcMbPasses f then .error .notAResponse
  else
    let addr := byteAt f 0
    let fc := byteAt f 1
    if fc.getLsbD 7 then
      match excOf (byteAt f 2) with
      | some code =>
        if f.length = 5 then .ok (.mbExceptionRsp addr (fcLow fc) code) else .error .notAResponse
      | none => .error .notAResponse
    else
      match decodeFunction fc with
      | .readHolding => decodeFc03Rsp f
      | .writeSingle =>
        if f.length = 8 then .ok (.mbFc06Rsp addr (fieldAt f 2) (fieldAt f 4)) else .error .notAResponse
      | .writeMultiple =>
        if f.length = 8 then .ok (.mbFc10Rsp addr (fieldAt f 2) (fieldAt f 4)) else .error .notAResponse
      | .other => .error .notAResponse

/-- The instruction of a stuffing token (30_encoding.md R114). -/
def tokenInstr : Token → Instr
  | .esc .soh => .escSoh
  | .esc .stx => .escStx
  | .esc .etx => .escEtx
  | .esc .isi => .escIsi
  | .literal b => .literal b

/-- The bytes of exactly one stuffing token (30_encoding.md R114, R115). -/
def decodeToken (bytes : List Byte) : Except DecodeError Instr :=
  match tokens bytes with
  | [t] => .ok (tokenInstr t)
  | _ => .error .notAToken

/-- An SP frame on the wire (30_encoding.md R112), by the receive checks of 42_sp_parser.md in the order of R409:
empty (R201), overflow (R203), then those of its length on. -/
def decodeSpFrame (raw : List Byte) : Except DecodeError Instr :=
  if raw = [] then .error .nothingReceived
  else if raw.length > Config.spFrameMax then .error (.spFrame .overflow)
  else
    match parseSpFrame raw with
    | .ok p => .ok (.spFrame p.dad p.sad p.isi p.fnc p.ext p.payload)
    | .error e => .error (.spFrame e)

/-- The decode of the command word (30_encoding.md R119). -/
def decodeCommand (c : Word) : Instr :=
  if c = Config.sentinel then .cmdSentinel
  else if cmdMode c = 0xFF#8 then .cmdIssueRaw (cmdTid c)
  else .cmdIssue (cmdMode c) (cmdTid c)

/-- The namespace of an operand byte (DESIGN CHOICE, log 1). -/
def nsOf (b : Byte) : Option Ns :=
  if b = 0x00#8 then some .req else if b = 0x01#8 then some .rsp else none

/-- The operand byte of a namespace (DESIGN CHOICE, log 1). -/
def nsByte : Ns → Byte
  | .req => 0x00#8
  | .rsp => 0x01#8

/-- HOST_TMPL_WR's operands: namespace, id, the 96 bytes. -/
def decodeTemplateWrite (nsb idb : Byte) (record : List Byte) : Except DecodeError Instr :=
  match nsOf nsb with
  | none => .error .badOperands
  | some ns =>
    if h : idb.toNat < 42 then
      if recordOk record then .ok (.hostTmplWr ns ⟨idb.toNat, h⟩ record) else .error .badOperands
    else .error .badOperands

/-- HOST_RD's and HOST_WR's bank address (10_state.md R61). -/
def bankAddr (a : Byte) : Option (Fin 224) := if h : a.toNat < 224 then some ⟨a.toNat, h⟩ else none

/-- The decoder: total on every packet, rejecting by name. -/
def decode (p : Packet) : Except DecodeError Instr :=
  match p.kind, p.bytes with
  | .mbRequest, f => decodeRequest f
  | .mbResponse, f => decodeResponse f
  | .spToken, bs => decodeToken bs
  | .spFrame, raw => decodeSpFrame raw
  | .spFields, payload => .ok (.spFields payload)
  | .spRaw, payload => .ok (.spRaw payload)
  | .spUnmatched, payload => .ok (.spUnmatched payload)
  | .cmdWord, [h, l] => .ok (decodeCommand (be16 h l))
  | .cmdWord, _ => .error .badOperands
  | .templateRecord, bs => if recordOk bs then .ok (.templateRecord bs) else .error .badOperands
  | .stuff cap, x => .ok (.stuff cap x)
  | .destuff, buf => .ok (.destuff buf)
  | .crcMb, x => .ok (.crcMb x)
  | .crcSp, x => .ok (.crcSp x)
  | .mbRxByte, [b] => .ok (.mbRxByte b)
  | .mbRxByte, _ => .error .badOperands
  | .mbSilence, [] => .ok .mbSilence
  | .mbSilence, _ => .error .badOperands
  | .spRxByte, [b] => .ok (.spRxByte b)
  | .spRxByte, _ => .error .badOperands
  | .spSilence, [] => .ok .spSilence
  | .spSilence, _ => .error .badOperands
  | .spPoll, [] => .ok .spPoll
  | .spPoll, _ => .error .badOperands
  | .spRepeatDue, [] => .ok .spRepeatDue
  | .spRepeatDue, _ => .error .badOperands
  | .hostRd, [a] => (bankAddr a).elim (.error .badOperands) fun a => .ok (.hostRd a)
  | .hostRd, _ => .error .badOperands
  | .hostWr, [a, h, l] => (bankAddr a).elim (.error .badOperands) fun a => .ok (.hostWr a (be16 h l))
  | .hostWr, _ => .error .badOperands
  | .hostTmplWr, nsb :: idb :: record => decodeTemplateWrite nsb idb record
  | .hostTmplWr, _ => .error .badOperands
  | .hostRdActual, [] => .ok .hostRdActual
  | .hostRdActual, _ => .error .badOperands
  | .reset, [] => .ok .reset
  | .reset, _ => .error .badOperands

/-! ## The encoder -/

/-- The packet of a well-formed instruction, from the same encodings. -/
def encode : Instr → Packet
  | .mbFc03 addr data => ⟨.mbRequest, requestFrame addr 0x03#8 data⟩
  | .mbFc06 addr data => ⟨.mbRequest, requestFrame addr 0x06#8 data⟩
  | .mbFc10 addr data => ⟨.mbRequest, requestFrame addr 0x10#8 data⟩
  | .mbIllegal addr fc data => ⟨.mbRequest, requestFrame addr fc data⟩
  | .mbExceptionRsp addr fn code => ⟨.mbResponse, exceptionFrame addr fn code⟩
  | .mbFc03Rsp addr values => ⟨.mbResponse, fc03Frame addr values⟩
  | .mbFc06Rsp addr reg val => ⟨.mbResponse, fc06Frame addr reg val⟩
  | .mbFc10Rsp addr start qty => ⟨.mbResponse, fc10Frame addr start qty⟩
  | .escSoh => ⟨.spToken, tokenWire (.esc .soh)⟩
  | .escStx => ⟨.spToken, tokenWire (.esc .stx)⟩
  | .escEtx => ⟨.spToken, tokenWire (.esc .etx)⟩
  | .escIsi => ⟨.spToken, tokenWire (.esc .isi)⟩
  | .literal b => ⟨.spToken, tokenWire (.literal b)⟩
  | .spFrame dad sad isi fnc ext payload =>
    ⟨.spFrame, spWire ⟨dad, sad, isi, fnc, ext, payload⟩⟩
  | .spFields payload => ⟨.spFields, payload⟩
  | .spRaw payload => ⟨.spRaw, payload⟩
  | .spUnmatched payload => ⟨.spUnmatched, payload⟩
  | .cmdSentinel => ⟨.cmdWord, wordBytes Config.sentinel⟩
  | .cmdIssueRaw tid => ⟨.cmdWord, [0xFF#8, tid]⟩
  | .cmdIssue mode tid => ⟨.cmdWord, [mode, tid]⟩
  | .templateRecord bytes => ⟨.templateRecord, bytes⟩
  | .stuff cap x => ⟨.stuff cap, x⟩
  | .destuff buf => ⟨.destuff, buf⟩
  | .crcMb x => ⟨.crcMb, x⟩
  | .crcSp x => ⟨.crcSp, x⟩
  | .mbRxByte b => ⟨.mbRxByte, [b]⟩
  | .mbSilence => ⟨.mbSilence, []⟩
  | .spRxByte b => ⟨.spRxByte, [b]⟩
  | .spSilence => ⟨.spSilence, []⟩
  | .spPoll => ⟨.spPoll, []⟩
  | .spRepeatDue => ⟨.spRepeatDue, []⟩
  | .hostRd a => ⟨.hostRd, [BitVec.ofNat 8 a.val]⟩
  | .hostWr a v => ⟨.hostWr, BitVec.ofNat 8 a.val :: wordBytes v⟩
  | .hostTmplWr ns id bytes => ⟨.hostTmplWr, nsByte ns :: BitVec.ofNat 8 id.val :: bytes⟩
  | .hostRdActual => ⟨.hostRdActual, []⟩
  | .reset => ⟨.reset, []⟩

/-! ## Words as spec/opcode_table.json numbers them -/

/-- The zero operand bytes of a request (log 4): START and QTY, and a byte count for function 0x10. -/
def zeroOperands (fc : Byte) : List Byte :=
  match decodeFunction fc with
  | .writeMultiple => List.replicate 5 0x00#8
  | _ => List.replicate 4 0x00#8

/-- The two-byte rows of the table: a stuffing token where the bytes are an ESC pair, else a command word. -/
def twoBytePacket (h l : Byte) : Packet :=
  if h = Config.dle ∧ (markerOf l).isSome then ⟨.spToken, [h, l]⟩ else ⟨.cmdWord, [h, l]⟩

/-- DESIGN CHOICE (log 4). The packet of a table row's word: 8 bits are byte 1 of a link-A request, whose other
operand bytes are zero and whose CRC is that of those bytes; 16 bits are a two-byte row, first wire byte high.
No other row has bits in the table. -/
def tablePacket (nbits w : Nat) : Packet :=
  if nbits ≤ 8 then
    let fc := BitVec.ofNat 8 w
    ⟨.mbRequest, requestFrame 0x00#8 fc (zeroOperands fc)⟩
  else
    let c := BitVec.ofNat 16 w
    twoBytePacket (hi8 c) (lo8 c)

/-- The instruction the decoder reads from a table row's word. -/
def decodeTableWord (nbits w : Nat) : Option Instr := (decode (tablePacket nbits w)).toOption

end Sys2Proof
end

