-- ==== Sys2Proof/Machine/Bank.lean ====
section
/-! DEFINITION. The Register Bank and its access primitives (10_state.md R34, 00_scope.md R15). -/

namespace Sys2Proof.Machine

/-- The Register Bank: 224 registers of 16 bits (10_state.md R34). -/
abbrev Bank := Vector Word 224

/-- `bank[a]`. Callers check the range (20_memory.md R70); beyond the bank it answers 0, which no rule reads. -/
def bankRead (b : Bank) (a : Nat) : Word := b[a]?.getD 0#16

/-- `bank[a] <- v`. Callers check the range; beyond the bank nothing is written (10_state.md R36). -/
def bankWrite (b : Bank) (a : Nat) (v : Word) : Bank := b.setIfInBounds a v

/-- `MemRead(a, n)` (R15). -/
def memRead (b : Bank) (a n : Nat) : List Word := (List.range n).map fun i => bankRead b (a + i)

/-- `MemWrite(a, n, ws)` with n the number of words (R15). -/
def memWrite (b : Bank) (a : Nat) : List Word → Bank
  | [] => b
  | w :: ws => memWrite (bankWrite b a w) (a + 1) ws

/-- The bank after the reset that takes draw `k`: CMD_REG holds the sentinel, every other register its draw
`bankInit(a)` (10_state.md R55; log 6). -/
def bankAtReset (cfg : Params) (k : Nat) : Bank :=
  bankWrite (Vector.ofFn fun a : Fin 224 => Config.bankInit k a.val) cfg.cmdReg.val Config.sentinel

end Sys2Proof.Machine
end

