-- ==== Sys2Proof/Machine/Templates.lean ====
section
/-! DEFINITION. The Template Store (10_state.md R58, 20_memory.md R72): 84 records of 96 bytes, held as a list of
(key, record) pairs in one canonical form. -/

namespace Sys2Proof.Machine

/-- A record of the store, 96 bytes (30_encoding.md R121). -/
abbrev Record := List Byte

/-- The store: the records that differ from the absent one, keys strictly rising. -/
abbrev TemplateStore := List (Nat × Record)

/-- The key of a record: REQ ids 0-41, then RSP ids (20_memory.md R72). -/
def templateKey (ns : Ns) (id : Fin 42) : Nat :=
  match ns with
  | .req => id.val
  | .rsp => 42 + id.val

/-- DESIGN CHOICE (log 9), unsafe. What a record nothing has written reads as: 96 bytes 0xFF, whose LEN says
absent (10_state.md R58). -/
def absentRecord : Record := List.replicate 96 0xFF#8

/-- The record at a key. -/
def storeRead (m : TemplateStore) (k : Nat) : Record := (m.lookup k).getD absentRecord

/-- Puts a record at its place in the key order. -/
def storeInsert (k : Nat) (r : Record) : TemplateStore → TemplateStore
  | [] => [(k, r)]
  | (k', r') :: m =>
    if k < k' then (k, r) :: (k', r') :: m
    else if k = k' then (k, r) :: m
    else (k', r') :: storeInsert k r m

/-- Replaces one record; writing the absent record removes the entry. -/
def storeWrite (m : TemplateStore) (k : Nat) (r : Record) : TemplateStore :=
  if r = absentRecord then m.filter fun e => e.1 ≠ k else storeInsert k r m

/-- The canonical form: keys of the store's range, strictly rising, each record 96 bytes and none absent. -/
abbrev TemplateStore.wf (m : TemplateStore) : Prop :=
  (m.map Prod.fst).Pairwise (· < ·) ∧
    ∀ e ∈ m, e.1 < 84 ∧ e.2.length = Config.recordSize ∧ e.2 ≠ absentRecord

end Sys2Proof.Machine
end

