-- ==== Sys2Proof/Machine/State.lean ====
section
/-! DEFINITION. The state of the block (10_state.md R62), its reset value, and the reasons a step can stop. -/

namespace Sys2Proof.Machine

/-- A record of the collaborator-request output (10_state.md R57). -/
inductive Event where
  /-- PERSIST(index, value), to config persistence (43_modbus.md R268). -/
  | persist (index : Nat) (value : Word)
  /-- TAG_EXTRACT(tid, payload), to the tag store (42_sp_parser.md R218). -/
  | tagExtract (tid : Byte) (payload : List Byte)
  deriving DecidableEq, Repr

/-- What a host read or a unit operation returns to its caller. -/
inductive Value where
  /-- A register, the actual byte count, or a CRC. -/
  | word (w : Word)
  /-- STUFF: `none` is CAPACITY (40_codec.md R151). -/
  | stuffed (out : Option (List Byte))
  /-- DESTUFF (40_codec.md R153). -/
  | destuffed (d : Destuffed)
  /-- A stuffing token: its logical byte, and whether it counts as the frame's STX or ETX (30_encoding.md R114). -/
  | token (logical : Byte) (isStx isEtx : Bool)
  /-- A template record (30_encoding.md R121). -/
  | record (v : RecordView)
  deriving DecidableEq, Repr

/-- The state: the block's own (R62), the Template Store beside it, the parameters, and the model's own fields. -/
structure State where
  /-- The parameters of this machine; no step changes them (00_scope.md R11). -/
  cfg : Params
  /-- The Register Bank (R34). -/
  bank : Bank
  /-- `s.mb_buf` (R44). -/
  mbBuf : List Byte
  /-- `s.mb_actual_len` (R46). -/
  mbActualLen : Word
  /-- `s.sp_rx` (R47). -/
  spRx : List Byte
  /-- `s.sp_ovf` (R47). -/
  spOvf : Bool
  /-- `s.sp_active` (R48). -/
  spActive : Option Word
  /-- `s.sp_req_fnc` (R49). -/
  spReqFnc : Option Byte
  /-- `s.sp_last` (R50). -/
  spLast : Option Word
  /-- `s.txA`, oldest frame first (R52). -/
  txA : List (List Byte)
  /-- `s.txB`, oldest frame first (R52). -/
  txB : List (List Byte)
  /-- `s.events`, oldest record first (R57). -/
  events : List Event
  /-- The Template Store (R58), a collaborator's state. -/
  templates : TemplateStore
  /-- Model's own: draws "this TemplateRead fails" the environment has fixed, next one first (R58; log 8). -/
  storeAnswers : List Bool
  /-- Model's own: how many free values have been drawn (log 8). -/
  draws : Nat
  /-- Model's own: the last value returned to a caller; no step reads it (log 10). -/
  result : Option Value
  /-- Model's own: the deliveries still to come, next one first (log 1). -/
  inbox : List Packet
  deriving DecidableEq, Repr

/-- Why the machine stops with a fault. The block itself never does (60_exceptions.md R400). -/
inductive Fault where
  /-- HOST_TMPL_WR with a record that is not 96 bytes, which is no form of the row (10_state.md R58; log 13).
  Raised by `execHostTmplWr`; safe. The decoder rejects such a packet, so no step raises it. -/
  | recordNotOfRecordSize (n : Nat)
  deriving DecidableEq, Repr

/-- Why the model refuses; nothing does. -/
inductive Refusal where
  /-- An arm of `exec` without a meaning; safe. No arm raises it. -/
  | notModelled (mnemonic : String)
  deriving DecidableEq, Repr

/-- The block right after reset (10_state.md R55, R56), with nothing sent, recorded or delivered yet. -/
def State.reset : State where
  cfg := Config.params
  bank := bankAtReset Config.params 0
  mbBuf := []
  mbActualLen := 0#16
  spRx := []
  spOvf := false
  spActive := none
  spReqFnc := none
  spLast := none
  txA := []
  txB := []
  events := []
  templates := []
  storeAnswers := []
  draws := 1
  result := none
  inbox := []

end Sys2Proof.Machine
end

