-- ==== Sys2Proof/Machine/Flags.lean ====
section
/-! DEFINITION. The block has no condition codes (10_state.md R51). What stands in their place: the error taxonomy
(60_exceptions.md R400), what each error answers (R401 to R404), and the conditions the dispatcher tests. -/

namespace Sys2Proof.Machine

/-- The exception code a Modbus error is answered with; `none` is a silent drop (60_exceptions.md R401, R402). -/
def mbErrorResponse : MbError → Option MbExc
  | .overflow => none
  | .tooShort => none
  | .otherSlave => none
  | .badCrc => none
  | .badLength => none
  | .illegalFunction => some .illegalFunction
  | .illegalAddress => some .illegalAddress
  | .illegalValue => some .illegalValue

/-- The class of a Modbus error (60_exceptions.md R401, R402). -/
def mbErrorClass : MbError → ErrorClass
  | .overflow => .resource
  | .tooShort => .format
  | .otherSlave => .protocol
  | .badCrc => .integrity
  | .badLength => .format
  | .illegalFunction => .protocol
  | .illegalAddress => .protocol
  | .illegalValue => .protocol

/-- The status code of an SP error (60_exceptions.md R403). -/
def spErrorStatus (cfg : Params) : SpError → Word
  | .overflow => cfg.errAlloc
  | .shortFrame => cfg.errShort
  | .badMarkers => cfg.errMarkers
  | .crcMissing => cfg.errShort
  | .badCrc => cfg.errCrc
  | .shortHeader => cfg.errShort
  | .notSoh => cfg.errMarkers
  | .earlyStx => cfg.errMarkers
  | .requestTooLong => cfg.errAlloc

/-- The class of an SP error (60_exceptions.md R403). -/
def spErrorClass : SpError → ErrorClass
  | .overflow => .resource
  | .shortFrame => .format
  | .badMarkers => .format
  | .crcMissing => .format
  | .badCrc => .integrity
  | .shortHeader => .format
  | .notSoh => .format
  | .earlyStx => .format
  | .requestTooLong => .resource

/-- The class of an SP error that writes no status (60_exceptions.md R404, R406). -/
def spDropClass : SpDrop → ErrorClass
  | .unmatchedKey => .protocol
  | .idOutOfRange => .storage
  | .readFailed => .storage
  | .absentTemplate => .storage
  | .badTemplateLength => .storage

/-- The class of every error, exactly one each (60_exceptions.md R400). It is only logged (00_scope.md R16, R18). -/
def errorClass : BlockError → ErrorClass
  | .modbus e => mbErrorClass e
  | .sp e => spErrorClass e
  | .dropped e => spDropClass e
  | .degraded .tooManyRecords => .resource
  | .degraded .windowExhausted => .resource
  | .degraded .rawTruncated => .resource
  | .configSet => .storage

/-- The dispatch key of a response is in SP_CMD_TABLE (30_encoding.md R116, R117). No request sent matches none. -/
def keyMatched (s : State) (fnc : Byte) : Bool :=
  match s.spReqFnc with
  | some r => s.cfg.cmdTable.contains (dispatchKey r fnc)
  | none => false

/-- The active command selects raw-mode fallback (30_encoding.md R117, 10_state.md R37). -/
def rawFallback (s : State) : Bool :=
  match s.spActive with
  | some c => cmdMode c = 0xFF#8
  | none => false

end Sys2Proof.Machine
end

