-- ==== Sys2Proof/Machine/Ops.lean ====
section
/-! DEFINITION. The named operations over the state (00_scope.md R15, R16): registers, output streams, template
reads, and the one operation by which each engine abandons a frame. -/

namespace Sys2Proof.Machine

/-- `bank[a]` of a state. -/
def State.reg (s : State) (a : Nat) : Word := bankRead s.bank a

/-- `bank[a] <- v` on a state. -/
def State.setReg (s : State) (a : Nat) (v : Word) : State := { s with bank := bankWrite s.bank a v }

/-- `MemWrite(a, n, ws)` on a state. -/
def State.setRegs (s : State) (a : Nat) (ws : List Word) : State := { s with bank := memWrite s.bank a ws }

/-- `emitA(bytes)`: one whole frame (10_state.md R52). -/
def State.emitA (s : State) (frame : List Byte) : State := { s with txA := s.txA ++ [frame] }

/-- `emitB(bytes)`: one whole frame (10_state.md R52). -/
def State.emitB (s : State) (frame : List Byte) : State := { s with txB := s.txB ++ [frame] }

/-- `event(name, args)` (10_state.md R57). -/
def State.record (s : State) (e : Event) : State := { s with events := s.events ++ [e] }

/-- A value returned to the caller of a host read or a unit operation (10_state.md R61; log 10). -/
def State.returns (s : State) (v : Value) : State := { s with result := some v }

/-- The command register (10_state.md R37). -/
def State.cmd (s : State) : Word := s.reg s.cfg.cmdReg.val

/-- `bank[CMD_REG] <- v`. -/
def State.setCmd (s : State) (v : Word) : State := s.setReg s.cfg.cmdReg.val v

/-- `bank[STATUS_REG] <- v`. -/
def State.setStatus (s : State) (v : Word) : State := s.setReg s.cfg.statusReg.val v

/-! ## Abandoning a frame: the block's whole error handling (60_exceptions.md R410, R411) -/

/-- The Modbus engine abandons frame `f`: it sends the exception response where the error has one, and nothing
else; no return from it exists (00_scope.md R16, 43_modbus.md R260, 60_exceptions.md R411). -/
def State.abandonMb (s : State) (f : List Byte) (e : MbError) : State :=
  match mbErrorResponse e with
  | some code => s.emitA (exceptionFrame (byteAt f 0) (fcLow (byteAt f 1)) code)
  | none => s

/-- `spStatus(code)`: the SP engine abandons a frame or request, leaving its code in STATUS_REG
(00_scope.md R16, 60_exceptions.md R403). -/
def State.abandonSp (s : State) (e : SpError) : State := s.setStatus (spErrorStatus s.cfg e)

/-- `drop(class)` of the SP engine: a frame or request is abandoned with no status and no other effect
(00_scope.md R16, 60_exceptions.md R404). -/
def State.dropSp (s : State) (_e : SpDrop) : State := s

/-- SUCCESS (42_sp_parser.md R221): nothing, unless the parameter STATUS_ON_SUCCESS holds a value. -/
def State.success (s : State) : State :=
  match s.cfg.statusOnSuccess with
  | some v => s.setStatus v
  | none => s

/-! ## TemplateRead (10_state.md R58) -/

/-- Whether the next TemplateRead returns err: a free value (D45; log 8). -/
def State.readFails (s : State) : Bool :=
  match s.storeAnswers with
  | b :: _ => b
  | [] => Config.templateReadFails s.draws

/-- The state once that draw is taken. -/
def State.drawn (s : State) : State :=
  match s.storeAnswers with
  | _ :: rest => { s with storeAnswers := rest }
  | [] => { s with draws := s.draws + 1 }

/-- The content of the store at a namespace and id: the record of the last completed write (20_memory.md R85). -/
def State.template (s : State) (ns : Ns) (id : Fin 42) : Record := storeRead s.templates (templateKey ns id)

/-- `TemplateRead(ns, id)`: `none` is err (10_state.md R58). -/
def State.templateRead (s : State) (ns : Ns) (id : Fin 42) : Option Record :=
  if s.readFails then none else some (s.template ns id)

end Sys2Proof.Machine
end

