-- ==== Sys2Proof/Machine/HostPort.lean ====
section
/-! DEFINITION. The host's steps (10_state.md R61) and RESET (70_reset_and_hazards.md R450). -/

namespace Sys2Proof.Machine

/-- HOST_RD(a): returns `bank[a]`. -/
def execHostRd (a : Fin 224) (s : State) : Host.Outcome State Fault Refusal :=
  .next (s.returns (.word (s.reg a.val)))

/-- HOST_WR(a, v): does `bank[a] <- v`, in any region. -/
def execHostWr (a : Fin 224) (v : Word) (s : State) : Host.Outcome State Fault Refusal :=
  .next (s.setReg a.val v)

/-- HOST_TMPL_WR(ns, id, rec): replaces one 96-byte record. -/
def execHostTmplWr (ns : Ns) (id : Fin 42) (bytes : List Byte) (s : State) : Host.Outcome State Fault Refusal :=
  if bytes.length = Config.recordSize then
    .next { s with templates := storeWrite s.templates (templateKey ns id) bytes }
  else .fault (.recordNotOfRecordSize bytes.length)

/-- HOST_RD_ACTUAL: returns `s.mb_actual_len`. -/
def execHostRdActual (s : State) : Host.Outcome State Fault Refusal :=
  .next (s.returns (.word s.mbActualLen))

/-- The block's own state at its reset values (10_state.md R55, R56). The collaborators, the frames already sent
and the records already made are kept (70_reset_and_hazards.md R453; DEDUCED, log 20). -/
def resetBlock (s : State) : State :=
  { s with
    bank := bankAtReset s.cfg s.draws
    mbBuf := []
    mbActualLen := 0#16
    spRx := []
    spOvf := false
    spActive := none
    spReqFnc := none
    spLast := none
    draws := s.draws + 1 }

/-- RESET (70_reset_and_hazards.md R450). -/
def execReset (s : State) : Host.Outcome State Fault Refusal := .next (resetBlock s)

end Sys2Proof.Machine
end

