-- ==== Sys2Proof/Machine/Modbus.lean ====
section
/-! DEFINITION. The Modbus RTU slave engine (43_modbus.md). `f` is a whole received frame. -/

namespace Sys2Proof.Machine

/-! ## The checks, in the order of 60_exceptions.md R408 -/

/-- VALIDATE (R255 to R257). -/
def mbFrameError (cfg : Params) (f : List Byte) : Option MbError :=
  if f.length < Config.mbMinLen then some .tooShort
  else if byteAt f 0 ≠ cfg.mbSlaveAddr then some .otherSlave
  else if ¬ crcMbPasses f then some .badCrc
  else none

/-- FC03's checks: length, range, quantity (R261 to R263). -/
def fc03Error (f : List Byte) : Option MbError :=
  let start := (fieldAt f 2).toNat
  let qty := (fieldAt f 4).toNat
  if f.length ≠ 8 then some .badLength
  else if start + qty > Config.bankSize then some .illegalAddress
  else if qty = 0 ∨ qty > Config.mbMaxReadQty then some .illegalValue
  else none

/-- FC06's checks: length, permission (R265, R266). -/
def fc06Error (f : List Byte) : Option MbError :=
  let reg := (fieldAt f 2).toNat
  if f.length ≠ 8 then some .badLength
  else if (Config.readwBase ≤ reg ∧ reg < Config.writewBase) ∨ reg ≥ Config.bankSize then some .illegalAddress
  else none

/-- FC10's checks: length, quantity and byte count, frame length, permission (R269 to R272). -/
def fc10Error (f : List Byte) : Option MbError :=
  let start := (fieldAt f 2).toNat
  let qty := (fieldAt f 4).toNat
  let bc := (byteAt f 6).toNat
  if f.length < 9 then some .badLength
  else if bc ≠ 2 * qty ∨ qty = 0 ∨ qty > Config.mbMaxWriteQty then some .illegalValue
  else if f.length ≠ 9 + bc then some .illegalValue
  else if start < Config.readwBase ∨ start + qty > Config.bankSize then some .illegalAddress
  else none

/-! ## The function operations -/

/-- FC03 (R261 to R264). -/
def fc03 (f : List Byte) (s : State) : State :=
  match fc03Error f with
  | some e => s.abandonMb f e
  | none => s.emitA (fc03Frame (byteAt f 0) (memRead s.bank (fieldAt f 2).toNat (fieldAt f 4).toNat))

/-- PERSIST_CHECK (R268). -/
def persistCheck (reg : Nat) (val : Word) (s : State) : State :=
  match s.cfg.persist.lookup reg with
  | some index => s.record (.persist index val)
  | none => s

/-- FC06 (R265 to R268). -/
def fc06 (f : List Byte) (s : State) : State :=
  match fc06Error f with
  | some e => s.abandonMb f e
  | none =>
    let reg := fieldAt f 2
    let val := fieldAt f 4
    (persistCheck reg.toNat val (s.setReg reg.toNat val)).emitA (fc06Frame (byteAt f 0) reg val)

/-- DATA of a 0x10 request (30_encoding.md R109). -/
def fc10Data (f : List Byte) : List Byte := slice f 7 (7 + (byteAt f 6).toNat)

/-- FC10 (R269 to R274). -/
def fc10 (f : List Byte) (s : State) : State :=
  match fc10Error f with
  | some e => s.abandonMb f e
  | none =>
    let data := fc10Data f
    let written := s.setRegs (fieldAt f 2).toNat (dataWords data)
    { written with mbActualLen := BitVec.ofNat 16 (Config.padDiscount data) }.emitA
      (fc10Frame (byteAt f 0) (fieldAt f 2) (fieldAt f 4))

/-- The illegal function (R259). -/
def mbIllegal (f : List Byte) (s : State) : State := s.abandonMb f .illegalFunction

/-- The function dispatch of a validated frame (R258, 30_encoding.md R110). -/
def mbFunction (f : List Byte) (s : State) : State :=
  match decodeFunction (byteAt f 1) with
  | .readHolding => fc03 f s
  | .writeSingle => fc06 f s
  | .writeMultiple => fc10 f s
  | .other => mbIllegal f s

/-- The frame step of link A, once the buffer is emptied (R254). -/
def mbFrameStep (f : List Byte) (s : State) : State :=
  match mbFrameError s.cfg f with
  | some e => s.abandonMb f e
  | none => mbFunction f s

/-- A request row run on its own: the operation of a frame that passed R255 and R257, for the slave of its address
byte (R256; log 3). -/
def forSlave (f : List Byte) (op : List Byte → State → State) (s : State) : State :=
  if byteAt f 0 = s.cfg.mbSlaveAddr then op f s else s.abandonMb f .otherSlave

/-! ## The meanings -/

/-- MB_FC03 (R264). -/
def execMbFc03 (addr : Byte) (data : List Byte) (s : State) : Host.Outcome State Fault Refusal :=
  .next (forSlave (requestFrame addr 0x03#8 data) fc03 s)

/-- MB_FC06 (R267). -/
def execMbFc06 (addr : Byte) (data : List Byte) (s : State) : Host.Outcome State Fault Refusal :=
  .next (forSlave (requestFrame addr 0x06#8 data) fc06 s)

/-- MB_FC10 (R273). -/
def execMbFc10 (addr : Byte) (data : List Byte) (s : State) : Host.Outcome State Fault Refusal :=
  .next (forSlave (requestFrame addr 0x10#8 data) fc10 s)

/-- MB_ILLEGAL (R259). -/
def execMbIllegal (addr fc : Byte) (data : List Byte) (s : State) : Host.Outcome State Fault Refusal :=
  .next (forSlave (requestFrame addr fc data) mbIllegal s)

/-- MB_EXCEPTION_RSP (R260). -/
def execMbExceptionRsp (addr : Byte) (fn : BitVec 7) (code : MbExc) (s : State) :
    Host.Outcome State Fault Refusal :=
  .next (s.emitA (exceptionFrame addr fn code))

/-- MB_FC03_RSP (30_encoding.md R105). -/
def execMbFc03Rsp (addr : Byte) (values : List Word) (s : State) : Host.Outcome State Fault Refusal :=
  .next (s.emitA (fc03Frame addr values))

/-- MB_FC06_RSP (30_encoding.md R106). -/
def execMbFc06Rsp (addr : Byte) (reg val : Word) (s : State) : Host.Outcome State Fault Refusal :=
  .next (s.emitA (fc06Frame addr reg val))

/-- MB_FC10_RSP (30_encoding.md R107). -/
def execMbFc10Rsp (addr : Byte) (start qty : Word) (s : State) : Host.Outcome State Fault Refusal :=
  .next (s.emitA (fc10Frame addr start qty))

/-- MB_RX_BYTE(b) (R251, R252). -/
def execMbRxByte (b : Byte) (s : State) : Host.Outcome State Fault Refusal :=
  .next { s with mbBuf := framerByte s.cfg.mbBufMax s.mbBuf b }

/-- MB_SILENCE (R253, R254). -/
def execMbSilence (s : State) : Host.Outcome State Fault Refusal :=
  .next (if s.mbBuf = [] then s else mbFrameStep s.mbBuf { s with mbBuf := [] })

end Sys2Proof.Machine
end

