-- ==== Sys2Proof/Machine/SpLink.lean ====
section
/-! DEFINITION. The SP link request path and receive drain (44_sp_link.md). -/

namespace Sys2Proof.Machine

/-- The payload of a record that was read, or its StorageError (R303). -/
def recordPayload (r : Record) : Except SpDrop (List Byte) :=
  match viewRecord r with
  | .absent => .error .absentTemplate
  | .badLength => .error .badTemplateLength
  | .payload p => .ok p

/-- RESOLVE(tid): the payload of the request template, or its StorageError (R303). -/
def resolve (s : State) (tid : Byte) : Except SpDrop (List Byte) :=
  if h : tid.toNat < 42 then
    match s.templateRead .req ⟨tid.toNat, h⟩ with
    | none => .error .readFailed
    | some r => recordPayload r
  else .error .idOutOfRange

/-- The state after RESOLVE: an id in range has read the store once (R303; log 8). -/
def afterResolve (s : State) (tid : Byte) : State := if tid.toNat < 42 then s.drawn else s

/-- The logical bytes of a request (R302). -/
def requestBody (cfg : Params) (payload : List Byte) : List Byte :=
  [Config.soh, cfg.spDad, cfg.spSad, Config.isi] ++ payload

/-- BUILD(body): `none` is CAPACITY (R304). -/
def buildRequest (cfg : Params) (body : List Byte) : Option (List Byte) :=
  (stuff body (cfg.spTxMax - 4)).map fun out => [Config.sync, Config.sync] ++ out ++ crcSpField body

/-- The state after a request is sent: the frame on link B, and the command and function byte that later responses
are dispatched against (R306). -/
def sendRequest (c : Word) (payload frame : List Byte) (s : State) : State :=
  { s.emitB frame with spActive := some c, spLast := some c, spReqFnc := payload.head? }

/-- ISSUE(c) (R302). -/
def issue (c : Word) (s : State) : State :=
  let after := afterResolve s (cmdTid c)
  match resolve s (cmdTid c) with
  | .error e => after.dropSp e
  | .ok payload =>
    match buildRequest s.cfg (requestBody s.cfg payload) with
    | none => after.abandonSp .requestTooLong
    | some frame => sendRequest c payload frame after

/-- The work of SP_POLL (R301, R307). -/
def poll (s : State) : State :=
  if s.cmd = Config.sentinel then s else (issue s.cmd s).setCmd Config.sentinel

/-- The work of SP_REPEAT_DUE (R308). -/
def repeatLast (s : State) : State :=
  match s.spLast with
  | some c => if s.cmd = Config.sentinel then issue c s else s
  | none => s

/-! ## The meanings -/

/-- SP_RX_BYTE(b) (R300). -/
def execSpRxByte (b : Byte) (s : State) : Host.Outcome State Fault Refusal :=
  .next (if s.spRx.length < s.cfg.spRxMax then { s with spRx := s.spRx ++ [b] } else { s with spOvf := true })

/-- SP_POLL (R301). -/
def execSpPoll (s : State) : Host.Outcome State Fault Refusal := .next (poll s)

/-- SP_REPEAT_DUE (R308). -/
def execSpRepeatDue (s : State) : Host.Outcome State Fault Refusal := .next (repeatLast s)

/-- CMD_SENTINEL: nothing pending, no write (R301, 30_encoding.md R119). -/
def execCmdSentinel (s : State) : Host.Outcome State Fault Refusal := .next s

/-- CMD_ISSUE_RAW: ISSUE of a command word with MODE = 0xFF (R302, 30_encoding.md R119; log 3). -/
def execCmdIssueRaw (tid : Byte) (s : State) : Host.Outcome State Fault Refusal :=
  .next (issue (be16 0xFF#8 tid) s)

/-- CMD_ISSUE: ISSUE of a command word (R302, 30_encoding.md R119; log 3). -/
def execCmdIssue (mode tid : Byte) (s : State) : Host.Outcome State Fault Refusal :=
  .next (issue (be16 mode tid) s)

end Sys2Proof.Machine
end

