-- ==== Sys2Proof/Machine/SpRouter.lean ====
section
/-! DEFINITION. The SP packet parser and command router (42_sp_parser.md). -/

namespace Sys2Proof.Machine

/-- PACK_FIELDS's loop from register `p` with `w` fields written: the bank, and how many fields fitted (R217). -/
def packLoop (odd : OddPlacement) : List (List Byte) → Nat → Nat → Bank → Bank × Nat
  | [], _, w, b => (b, w)
  | f :: fs, p, w, b =>
    let need := 1 + halfUp f.length
    if p + need > Config.fieldEnd + 1 then (b, w)
    else
      packLoop odd fs (p + need) (w + 1)
        (memWrite (bankWrite b p (BitVec.ofNat 16 f.length)) (p + 1) (pack2 odd f))

/-- PACK_FIELDS(recs): the field image of 30_encoding.md R122 (R217). -/
def packFields (odd : OddPlacement) (recs : List (List Byte)) (b : Bank) : Bank :=
  let (packed, w) := packLoop odd recs (Config.fieldBase + 1) 0 b
  bankWrite packed Config.fieldBase (BitVec.ofNat 16 w)

/-- The RSP template id of the extraction request (R218). Where no command is active the spec states none and it
is a free value (log 12). -/
def tagTid (s : State) : Byte :=
  match s.spActive with
  | some c => cmdTid c
  | none => Config.unstatedTid s.draws

/-- The draws taken by `tagTid`. -/
def tagDraws (s : State) : Nat :=
  match s.spActive with
  | some _ => s.draws
  | none => s.draws + 1

/-- Field mode (R212): segment, keep 20 records, pack, ask for the extraction, succeed. -/
def fieldMode (payload : List Byte) (s : State) : State :=
  let recs := (segment s.cfg.rs payload).take Config.maxFields
  let packed := { s with bank := packFields s.cfg.oddPlacement recs s.bank, draws := tagDraws s }
  (packed.record (.tagExtract (tagTid s) payload)).success

/-- Raw mode (R213, R219). -/
def rawMode (payload : List Byte) (s : State) : State :=
  (s.setRegs Config.rawBase (pack2 s.cfg.oddPlacement (payload.take (2 * Config.rawRegs)))).success

/-- DISPATCH(fnc, payload) (R211, 30_encoding.md R117). DEDUCED (log 22), unsafe: with no request's function byte and
an active command of high byte 0xFF, raw mode, as R211, R213 and R117 say, although R214 speaks of every frame that
arrives with no function byte as dropped. -/
def dispatch (fnc : Byte) (payload : List Byte) (s : State) : State :=
  if keyMatched s fnc then fieldMode payload s
  else if rawFallback s then rawMode payload s
  else s.dropSp .unmatchedKey

/-- The checks on what a drain received, in the order of R200: overflow first (R203). -/
def spReceive (raw : List Byte) (ovf : Bool) : Except SpError SpFields :=
  if ovf then .error .overflow else parseSpFrame raw

/-- The frame step of link B, once the buffer is emptied (R200). -/
def spFrameStep (raw : List Byte) (ovf : Bool) (s : State) : State :=
  match spReceive raw ovf with
  | .error e => s.abandonSp e
  | .ok p => dispatch p.fnc p.payload s

/-! ## The meanings -/

/-- SP_SILENCE (R200, R201). -/
def execSpSilence (s : State) : Host.Outcome State Fault Refusal :=
  let emptied := { s with spRx := [], spOvf := false }
  .next (if s.spRx = [] ∧ s.spOvf = false then emptied else spFrameStep s.spRx s.spOvf emptied)

/-- SP_FRAME: a frame that passed R201 to R210 is dispatched on FNC and payload; DAD, SAD, ISI and the header
extension change nothing (R209, R211; log 3). -/
def execSpFrame (_dad _sad _isi fnc : Byte) (_ext payload : List Byte) (s : State) :
    Host.Outcome State Fault Refusal :=
  .next (dispatch fnc payload s)

/-- SP_FIELDS (R212). -/
def execSpFields (payload : List Byte) (s : State) : Host.Outcome State Fault Refusal :=
  .next (fieldMode payload s)

/-- SP_RAW (R213). -/
def execSpRaw (payload : List Byte) (s : State) : Host.Outcome State Fault Refusal :=
  .next (rawMode payload s)

/-- SP_UNMATCHED: the frame is dropped, nothing is written (R214). -/
def execSpUnmatched (_payload : List Byte) (s : State) : Host.Outcome State Fault Refusal :=
  .next (s.dropSp .unmatchedKey)

end Sys2Proof.Machine
end

