-- ==== Sys2Proof/Machine/Units.lean ====
section
/-! DEFINITION. The pure unit operations, tokens and record layout. They read and write no block state
(40_codec.md R150, 41_crc.md R175); what they return is left in `result` (log 10). -/

namespace Sys2Proof.Machine

/-- What DESTUFF makes of one token (30_encoding.md R114). -/
def tokenValue (t : Token) : Value := .token (tokenByte t) (t = .esc .stx) (t = .esc .etx)

/-- ESC_SOH (R114). -/
def execEscSoh (s : State) : Host.Outcome State Fault Refusal := .next (s.returns (tokenValue (.esc .soh)))

/-- ESC_STX (R114). -/
def execEscStx (s : State) : Host.Outcome State Fault Refusal := .next (s.returns (tokenValue (.esc .stx)))

/-- ESC_ETX (R114). -/
def execEscEtx (s : State) : Host.Outcome State Fault Refusal := .next (s.returns (tokenValue (.esc .etx)))

/-- ESC_ISI (R114). -/
def execEscIsi (s : State) : Host.Outcome State Fault Refusal := .next (s.returns (tokenValue (.esc .isi)))

/-- LITERAL (R114, R115). -/
def execLiteral (b : Byte) (s : State) : Host.Outcome State Fault Refusal :=
  .next (s.returns (tokenValue (.literal b)))

/-- TEMPLATE_RECORD (30_encoding.md R121). -/
def execTemplateRecord (bytes : List Byte) (s : State) : Host.Outcome State Fault Refusal :=
  .next (s.returns (.record (viewRecord bytes)))

/-- STUFF(x, cap) (40_codec.md R151). -/
def execStuff (cap : Nat) (x : List Byte) (s : State) : Host.Outcome State Fault Refusal :=
  .next (s.returns (.stuffed (stuff x cap)))

/-- DESTUFF(buf) (40_codec.md R153). -/
def execDestuff (buf : List Byte) (s : State) : Host.Outcome State Fault Refusal :=
  .next (s.returns (.destuffed (destuff buf)))

/-- CRC_MB(x) (41_crc.md R170). -/
def execCrcMb (x : List Byte) (s : State) : Host.Outcome State Fault Refusal :=
  .next (s.returns (.word (crcMb x)))

/-- CRC_SP(x) (41_crc.md R172). -/
def execCrcSp (x : List Byte) (s : State) : Host.Outcome State Fault Refusal :=
  .next (s.returns (.word (crcSp x)))

end Sys2Proof.Machine
end

