-- ==== Sys2Proof/Machine/Dispatch.lean ====
section
/-! DEFINITION. One arm per row of spec/opcode_table.json, in the table's order. -/

namespace Sys2Proof.Machine

def exec (i : Instr) (s : State) : Host.Outcome State Fault Refusal :=
  match i with
  | .mbFc03 addr data => Sys2Proof.Machine.execMbFc03 addr data s
  | .mbFc06 addr data => Sys2Proof.Machine.execMbFc06 addr data s
  | .mbFc10 addr data => Sys2Proof.Machine.execMbFc10 addr data s
  | .mbIllegal addr fc data => Sys2Proof.Machine.execMbIllegal addr fc data s
  | .mbExceptionRsp addr fn code => Sys2Proof.Machine.execMbExceptionRsp addr fn code s
  | .mbFc03Rsp addr values => Sys2Proof.Machine.execMbFc03Rsp addr values s
  | .mbFc06Rsp addr reg val => Sys2Proof.Machine.execMbFc06Rsp addr reg val s
  | .mbFc10Rsp addr start qty => Sys2Proof.Machine.execMbFc10Rsp addr start qty s
  | .escSoh => Sys2Proof.Machine.execEscSoh s
  | .escStx => Sys2Proof.Machine.execEscStx s
  | .escEtx => Sys2Proof.Machine.execEscEtx s
  | .escIsi => Sys2Proof.Machine.execEscIsi s
  | .literal b => Sys2Proof.Machine.execLiteral b s
  | .spFrame dad sad isi fnc ext payload => Sys2Proof.Machine.execSpFrame dad sad isi fnc ext payload s
  | .spFields payload => Sys2Proof.Machine.execSpFields payload s
  | .spRaw payload => Sys2Proof.Machine.execSpRaw payload s
  | .spUnmatched payload => Sys2Proof.Machine.execSpUnmatched payload s
  | .cmdSentinel => Sys2Proof.Machine.execCmdSentinel s
  | .cmdIssueRaw tid => Sys2Proof.Machine.execCmdIssueRaw tid s
  | .cmdIssue mode tid => Sys2Proof.Machine.execCmdIssue mode tid s
  | .templateRecord bytes => Sys2Proof.Machine.execTemplateRecord bytes s
  | .stuff cap x => Sys2Proof.Machine.execStuff cap x s
  | .destuff buf => Sys2Proof.Machine.execDestuff buf s
  | .crcMb x => Sys2Proof.Machine.execCrcMb x s
  | .crcSp x => Sys2Proof.Machine.execCrcSp x s
  | .mbRxByte b => Sys2Proof.Machine.execMbRxByte b s
  | .mbSilence => Sys2Proof.Machine.execMbSilence s
  | .spRxByte b => Sys2Proof.Machine.execSpRxByte b s
  | .spSilence => Sys2Proof.Machine.execSpSilence s
  | .spPoll => Sys2Proof.Machine.execSpPoll s
  | .spRepeatDue => Sys2Proof.Machine.execSpRepeatDue s
  | .hostRd a => Sys2Proof.Machine.execHostRd a s
  | .hostWr a v => Sys2Proof.Machine.execHostWr a v s
  | .hostTmplWr ns id bytes => Sys2Proof.Machine.execHostTmplWr ns id bytes s
  | .hostRdActual => Sys2Proof.Machine.execHostRdActual s
  | .reset => Sys2Proof.Machine.execReset s

end Sys2Proof.Machine
end

