-- ==== Sys2Proof/Machine/Fetch.lean ====
section
/-! DEFINITION. The block fetches nothing (10_state.md R33): the next step's input is the next delivery (log 1). -/

namespace Sys2Proof.Machine

/-- The tokens of a byte stream, one after the other (30_encoding.md R115): each leaves its value, and the last
one's stays. -/
def runTokens (bytes : List Byte) (s : State) : State := (tokens bytes).foldl (fun s t => s.returns (tokenValue t)) s

/-- A delivery that is no row of the table, by what the decoder found; the step goes on in every case
(60_exceptions.md R400). A link frame that fails its engine's checks is abandoned as its engine abandons it
(43_modbus.md R255, R257; 60_exceptions.md R403), and an empty one is a silence after nothing, a no-op
(43_modbus.md R253, 42_sp_parser.md R201). Other bytes than one token are read as the tokens they hold
(30_encoding.md R115). DESIGN CHOICE (log 1): bytes the block never sends as a response (R105 to R108), and operands
that no event, host step or record has (R120, R121, 10_state.md R61), are no event of the block and change
nothing. -/
def rejectPacket (p : Packet) (e : DecodeError) (s : State) : State :=
  match e with
  | .nothingReceived => s
  | .mbFrame me => s.abandonMb p.bytes me
  | .spFrame se => s.abandonSp se
  | .notAToken => runTokens p.bytes s
  | .notAResponse => s
  | .badOperands => s

/-- The step of a delivered packet, the rest of the deliveries waiting: decode, then one atomic step
(20_memory.md R76). -/
def stepPacket (p : Packet) (rest : List Packet) (s : State) : Host.Outcome State Fault Refusal :=
  match decode p with
  | .ok i => exec i { s with inbox := rest }
  | .error e => .next (rejectPacket p e { s with inbox := rest })

/-- The next delivery's step. With nothing delivered the block stays as it is (00_scope.md R9; log 2). -/
def stepInbox (s : State) : Host.Outcome State Fault Refusal :=
  match s.inbox with
  | [] => .next s
  | p :: rest => stepPacket p rest s

end Sys2Proof.Machine
end

