-- ==== Sys2Proof/Machine/Step.lean ====
section
/-! DEFINITION. One step: one input event, handled whole (00_scope.md R9, 30_encoding.md R120). -/

namespace Sys2Proof.Machine

/-- One step of the block. -/
def step (s : State) : Host.Outcome State Fault Refusal := stepInbox s

/-- `s` with a table row's word as the next delivery (log 2, log 4). -/
def State.withFetchWord (s : State) (nbits w : Nat) : State :=
  { s with inbox := tablePacket nbits w :: s.inbox }

end Sys2Proof.Machine
end

