-- ==== Sys2Proof/Safety.lean ====
section
/-! DEFINITION. What a good state is, what is seen of a state from outside, and the port write table, in the terms
the claims use. -/

namespace Sys2Proof.Machine

/-- The states the spec's own bounds allow: the parameters meet their premises (R11), each receive buffer is within
its capacity (10_state.md R44, R47), the overflow flag means a full buffer (44_sp_link.md R300), the active and
the last command are one value (10_state.md R50), a request's function byte is kept only beside its command
(44_sp_link.md R306), and the Template Store is in canonical form. -/
structure State.Inv (s : State) : Prop where
  cfgOk : s.cfg.Ok
  mbFits : s.mbBuf.length ≤ s.cfg.mbBufMax
  spFits : s.spRx.length ≤ s.cfg.spRxMax
  ovfFull : s.spOvf = true → s.spRx.length = s.cfg.spRxMax
  activeIsLast : s.spActive = s.spLast
  fncHasCommand : s.spReqFnc ≠ none → s.spActive ≠ none
  storeWf : s.templates.wf

/-- The registers of CTRL (10_state.md R35). -/
abbrev inCtrl (a : Nat) : Prop := a < 0x20

/-- The registers of READW (10_state.md R35). -/
abbrev inReadw (a : Nat) : Prop := 0x20 ≤ a ∧ a < 0x80

/-- The registers of WRITEW (10_state.md R35). -/
abbrev inWritew (a : Nat) : Prop := 0x80 ≤ a ∧ a < 224

/-- Which registers a row may change (20_memory.md R78). A request row and a silence write what their function code
may, the SP engine writes READW, its status and its consumed command, the host writes what it names, and RESET
writes everything. -/
def mayWrite (s : State) : Instr → Nat → Prop
  | .mbFc06 _ _, a => inCtrl a ∨ inWritew a
  | .mbFc10 _ _, a => inReadw a ∨ inWritew a
  | .mbSilence, a =>
    (byteAt s.mbBuf 1 = 0x06#8 ∧ (inCtrl a ∨ inWritew a)) ∨ (byteAt s.mbBuf 1 = 0x10#8 ∧ (inReadw a ∨ inWritew a))
  | .spFrame _ _ _ _ _ _, a => inReadw a ∨ a = s.cfg.statusReg.val
  | .spFields _, a => inReadw a ∨ a = s.cfg.statusReg.val
  | .spRaw _, a => inReadw a ∨ a = s.cfg.statusReg.val
  | .spSilence, a => inReadw a ∨ a = s.cfg.statusReg.val
  | .cmdIssueRaw _, a => a = s.cfg.statusReg.val
  | .cmdIssue _ _, a => a = s.cfg.statusReg.val
  | .spRepeatDue, a => a = s.cfg.statusReg.val
  | .spPoll, a => a = s.cfg.cmdReg.val ∨ a = s.cfg.statusReg.val
  | .hostWr b _, a => a = b.val
  | .reset, _ => True
  | .mbFc03 _ _, _ => False
  | .mbIllegal _ _ _, _ => False
  | .mbExceptionRsp _ _ _, _ => False
  | .mbFc03Rsp _ _, _ => False
  | .mbFc06Rsp _ _ _, _ => False
  | .mbFc10Rsp _ _ _, _ => False
  | .escSoh, _ => False
  | .escStx, _ => False
  | .escEtx, _ => False
  | .escIsi, _ => False
  | .literal _, _ => False
  | .spUnmatched _, _ => False
  | .cmdSentinel, _ => False
  | .templateRecord _, _ => False
  | .stuff _ _, _ => False
  | .destuff _, _ => False
  | .crcMb _, _ => False
  | .crcSp _, _ => False
  | .mbRxByte _, _ => False
  | .spRxByte _, _ => False
  | .hostRd _, _ => False
  | .hostTmplWr _ _ _, _ => False
  | .hostRdActual, _ => False

/-- The rows of the Modbus engine, Port A (10_state.md R30). -/
def portA : Instr → Bool
  | .mbFc03 _ _ | .mbFc06 _ _ | .mbFc10 _ _ | .mbIllegal _ _ _ => true
  | .mbExceptionRsp _ _ _ | .mbFc03Rsp _ _ | .mbFc06Rsp _ _ _ | .mbFc10Rsp _ _ _ => true
  | .mbRxByte _ | .mbSilence => true
  | .escSoh | .escStx | .escEtx | .escIsi | .literal _ => false
  | .spFrame _ _ _ _ _ _ | .spFields _ | .spRaw _ | .spUnmatched _ => false
  | .cmdSentinel | .cmdIssueRaw _ | .cmdIssue _ _ | .templateRecord _ => false
  | .stuff _ _ | .destuff _ | .crcMb _ | .crcSp _ => false
  | .spRxByte _ | .spSilence | .spPoll | .spRepeatDue => false
  | .hostRd _ | .hostWr _ _ | .hostTmplWr _ _ _ | .hostRdActual | .reset => false

/-- The rows of the SP engine, Port B (10_state.md R30). -/
def portB : Instr → Bool
  | .spFrame _ _ _ _ _ _ | .spFields _ | .spRaw _ | .spUnmatched _ => true
  | .cmdSentinel | .cmdIssueRaw _ | .cmdIssue _ _ => true
  | .spRxByte _ | .spSilence | .spPoll | .spRepeatDue => true
  | .mbFc03 _ _ | .mbFc06 _ _ | .mbFc10 _ _ | .mbIllegal _ _ _ => false
  | .mbExceptionRsp _ _ _ | .mbFc03Rsp _ _ | .mbFc06Rsp _ _ _ | .mbFc10Rsp _ _ _ => false
  | .mbRxByte _ | .mbSilence => false
  | .escSoh | .escStx | .escEtx | .escIsi | .literal _ => false
  | .templateRecord _ | .stuff _ _ | .destuff _ | .crcMb _ | .crcSp _ => false
  | .hostRd _ | .hostWr _ _ | .hostTmplWr _ _ _ | .hostRdActual | .reset => false

/-- The state once link A's buffer is emptied (43_modbus.md R254). -/
def State.mbEmptied (s : State) : State := { s with mbBuf := [] }

/-- The state once link B's buffer is emptied (42_sp_parser.md R200). -/
def State.drained (s : State) : State := { s with spRx := [], spOvf := false }

/-- The drained state with a code in STATUS_REG, and nothing else changed (42_sp_parser.md R200). -/
def State.drainedWith (s : State) (code : Word) : State :=
  { s with spRx := [], spOvf := false, bank := bankWrite s.bank s.cfg.statusReg.val code }

/-- The state with one more frame on link A, and nothing else changed. -/
def State.answered (s : State) (frame : List Byte) : State := { s with txA := s.txA ++ [frame] }

/-- What STATUS_REG holds after a success (42_sp_parser.md R221). -/
def State.successStatus (s : State) : Word :=
  match s.cfg.statusOnSuccess with
  | some v => v
  | none => s.reg s.cfg.statusReg.val

/-- The field image of some records (30_encoding.md R122): their number, then for each its length and its bytes. -/
def fieldImage (odd : OddPlacement) (recs : List (List Byte)) : List Word :=
  BitVec.ofNat 16 recs.length :: recs.flatMap fun f => BitVec.ofNat 16 f.length :: pack2 odd f

/-! ## Runs and the environment's fairness (60_exceptions.md R419) -/

/-- A run: before step `n` the environment adds the deliveries `env n` behind those still waiting, and the step leads to
the next state. -/
def Run (env : Nat → List Packet) (r : Nat → State) : Prop :=
  ∀ n, step { r n with inbox := (r n).inbox ++ env n } = .next (r (n + 1))

/-- The event that step `n` of a run takes is `k`, one without operands. -/
def takes (env : Nat → List Packet) (r : Nat → State) (n : Nat) (k : Kind) : Prop :=
  ((r n).inbox ++ env n).head? = some ⟨k, []⟩

/-- The fairness the spec assumes of the environment (R419): every Accumulating buffer is eventually followed by a
silence, and every pending command by SP_POLL. The model's step does not assume it (log 21). -/
structure Fair (env : Nat → List Packet) (r : Nat → State) : Prop where
  mbSilence : ∀ n, (r n).mbBuf ≠ [] → ∃ m ≥ n, takes env r m .mbSilence
  spSilence : ∀ n, (r n).spRx ≠ [] → ∃ m ≥ n, takes env r m .spSilence
  spPoll : ∀ n, (r n).cmd ≠ Config.sentinel → ∃ m ≥ n, takes env r m .spPoll

/-- A state as it is but for the value last returned to a caller, which is an output. -/
def State.withResult (s : State) (r : Option Value) : State := { s with result := r }

/-- What an outcome leaves, but for the value last returned. -/
def outcomeBlind : Host.Outcome State Fault Refusal → Host.Outcome State Fault Refusal
  | .next s => .next (s.withResult none)
  | .fault f => .fault f
  | .refused r => .refused r

end Sys2Proof.Machine
end

