-- ==== Sys2Proof/Certificates/Slice0/Obligations.lean ====
section
/-! DEFINITION. The statements for the provers. -/

open Sys2Proof
open Sys2Proof.Machine

/-! ## Encodings and the step -/

/-- Decode and encode agree on every well-formed instruction, with every operand it may have. -/
def Obligations.DecodeEncodeAgree : Prop :=
  ∀ i : Instr, i.wf = true → decode (encode i) = .ok i

/-- Words written out from the spec's encodings decode to the instruction they stand for (R102, R103, R107, R108,
R110, R111, R112, R114, R119; vectors L1-3, M10, M17, M29, S11). -/
def Obligations.SpecWordsDecode : Prop :=
  decode ⟨.mbRequest, [0x01, 0x03, 0x00, 0x00, 0x00, 0x0A, 0xC5, 0xCD]⟩ =
      .ok (.mbFc03 0x01 [0x00, 0x00, 0x00, 0x0A]) ∧
    decode ⟨.mbRequest, [0x01, 0x06, 0x00, 0x00, 0x00, 0x05, 0x49, 0xC9]⟩ =
      .ok (.mbFc06 0x01 [0x00, 0x00, 0x00, 0x05]) ∧
    decode ⟨.mbRequest, [0x01, 0x2B, 0x40, 0x3F]⟩ = .ok (.mbIllegal 0x01 0x2B []) ∧
    decode ⟨.mbResponse, [0x01, 0x83, 0x02, 0xC0, 0xF1]⟩ = .ok (.mbExceptionRsp 0x01 0x03 .illegalAddress) ∧
    decode ⟨.mbResponse, [0x01, 0x10, 0x00, 0x7F, 0x00, 0x02, 0x70, 0x10]⟩ = .ok (.mbFc10Rsp 0x01 0x007F 0x0002) ∧
    decode ⟨.spToken, [0x10, 0x02]⟩ = .ok .escStx ∧
    decode ⟨.spToken, [0x10]⟩ = .ok (.literal 0x10) ∧
    decode ⟨.cmdWord, [0xFF, 0xFF]⟩ = .ok .cmdSentinel ∧
    decode ⟨.cmdWord, [0xFF, 0x07]⟩ = .ok (.cmdIssueRaw 0x07) ∧
    decode ⟨.spFrame, [0xFF, 0xFF, 0x10, 0x01, 0x40, 0x00, 0x10, 0x1F, 0x14, 0x10, 0x02, 0x41, 0x42, 0x43, 0x10,
      0x03, 0xD6, 0xB1]⟩ = .ok (.spFrame 0x40 0x00 0x1F 0x14 [] [0x41, 0x42, 0x43])

/-- A step runs the instruction its next delivery decodes to, with that delivery taken from the list. Where nothing
is delivered it changes nothing, which is the model's choice (log 2). -/
def Obligations.StepRunsDelivery : Prop :=
  (∀ (s : State) (p : Packet) (rest : List Packet) (i : Instr),
      s.inbox = p :: rest → decode p = .ok i → step s = exec i { s with inbox := rest }) ∧
    ∀ s : State, s.inbox = [] → step s = .next s

/-- A delivery that no row stands for does not stop the block. A Modbus frame that fails R255 or R257 is dropped
silently, an SP frame leaves its status code (R403), an empty frame changes nothing (R253, R201), bytes that are not one
token are read as the tokens they hold (R115), and of an over-long Modbus frame the part after the overflow is judged
anew (R252, R462). That a frame or token can be delivered whole, and that bytes which are no encoding at all change
nothing, is the model's choice (log 1). -/
def Obligations.StepAbandonsFaultyFrame : Prop :=
  (∀ (s : State) (p : Packet) (rest : List Packet) (e : DecodeError), s.inbox = p :: rest → decode p = .error e →
      (∀ m, e = .mbFrame m → step s = .next { s with inbox := rest }) ∧
        (∀ m, e = .spFrame m →
          step s = .next { s with
            inbox := rest
            bank := bankWrite s.bank s.cfg.statusReg.val (spErrorStatus s.cfg m) }) ∧
        (e = .notAToken →
          step s = .next { s with
            inbox := rest
            result := (((tokens p.bytes).getLast?.map fun t => some (tokenValue t)).getD s.result) }) ∧
        (e = .nothingReceived ∨ e = .notAResponse ∨ e = .badOperands → step s = .next { s with inbox := rest })) ∧
    (∀ (s : State) (k : Kind) (rest : List Packet), (k = .mbRequest ∨ k = .spFrame) → s.inbox = ⟨k, []⟩ :: rest →
      step s = .next { s with inbox := rest }) ∧
    ∀ f : List Byte, 257 ≤ f.length → decode ⟨.mbRequest, f⟩ = decode ⟨.mbRequest, f.drop 257⟩

/-- A table row's word placed as the next delivery is what the next step runs. -/
def Obligations.FetchWordRuns : Prop :=
  ∀ (s : State) (nbits w : Nat) (i : Instr),
    decodeTableWord nbits w = some i → step (s.withFetchWord nbits w) = exec i s

/-! ## The whole machine -/

/-- Every well-formed instruction completes in every state. -/
def Obligations.EveryInstructionCompletes : Prop :=
  ∀ (i : Instr) (s : State), i.wf = true → ∃ t, exec i s = .next t

/-- No error stops the block: every step answers a next state, whatever is delivered (R400, R410). -/
def Obligations.NoErrorStops : Prop :=
  ∀ s : State, ∃ t, step s = .next t

/-- The spec's bounds hold after reset. -/
def Obligations.InvariantAtReset : Prop := State.reset.Inv

/-- Every step keeps the spec's bounds. -/
def Obligations.InvariantKept : Prop :=
  ∀ s t : State, s.Inv → step s = .next t → t.Inv

/-- No row writes a register outside the port write table (R78), and what Port B writes to CMD_REG is the sentinel and
to STATUS_REG a status code. RESET, which works through no port, may change every register (R450). -/
def Obligations.PortWriteTable : Prop :=
  ∀ (i : Instr) (s t : State), s.cfg.Ok → exec i s = .next t →
    (∀ a < 224, t.reg a ≠ s.reg a → mayWrite s i a) ∧
      (portB i = true →
        (t.cmd ≠ s.cmd → t.cmd = 0xFFFF#16) ∧
          (t.reg s.cfg.statusReg.val ≠ s.reg s.cfg.statusReg.val →
            t.reg s.cfg.statusReg.val ∈ [s.cfg.errShort, s.cfg.errCrc, s.cfg.errAlloc, s.cfg.errMarkers]))

/-- Frames sent and records made are never taken back: every step only appends to them. -/
def Obligations.OutputsOnlyGrow : Prop :=
  ∀ s t : State, step s = .next t → s.txA <+: t.txA ∧ s.txB <+: t.txB ∧ s.events <+: t.events ∧ t.cfg = s.cfg

/-- The rows of one link's engine leave the other engine's state alone. -/
def Obligations.EnginesKeepApart : Prop :=
  ∀ (i : Instr) (s t : State), exec i s = .next t →
    (portA i = true →
        t = { s with bank := t.bank, mbBuf := t.mbBuf, mbActualLen := t.mbActualLen, txA := t.txA, events := t.events }) ∧
      (portB i = true →
        t = { s with
          bank := t.bank, spRx := t.spRx, spOvf := t.spOvf, spActive := t.spActive, spReqFnc := t.spReqFnc
          spLast := t.spLast, txB := t.txB, events := t.events, storeAnswers := t.storeAnswers, draws := t.draws })

/-- The value last returned to a caller is an output only: no row's effect depends on it. -/
def Obligations.ResultIsOutputOnly : Prop :=
  ∀ (i : Instr) (s : State) (r : Option Value), outcomeBlind (exec i (s.withResult r)) = outcomeBlind (exec i s)

/-- What reset leaves (R55, R56): the sentinel in CMD_REG, the unconstrained draw in every other register, both
engines idle, and no frame sent yet. -/
def Obligations.ResetState : Prop :=
  State.reset.cmd = 0xFFFF#16 ∧
    (∀ a < 224, a ≠ State.reset.cfg.cmdReg.val → State.reset.reg a = Config.bankInit 0 a) ∧
    State.reset.mbBuf = [] ∧ State.reset.mbActualLen = 0 ∧ State.reset.spRx = [] ∧ State.reset.spOvf = false ∧
    State.reset.spActive = none ∧ State.reset.spReqFnc = none ∧ State.reset.spLast = none ∧
    State.reset.txA = [] ∧ State.reset.txB = []

/-- RESET: every block state at its reset value in one step, the registers at a new draw; the Template Store, the
frames sent and the records made are kept (R450; 70_reset_and_hazards.md R453; log 20). -/
def Obligations.ResetEvent : Prop :=
  ∀ s : State, ∃ t, exec .reset s = .next t ∧
    t.cmd = 0xFFFF#16 ∧
    (∀ a < 224, a ≠ s.cfg.cmdReg.val → t.reg a = Config.bankInit s.draws a) ∧
    t = { s with
      bank := t.bank, mbBuf := [], mbActualLen := 0, spRx := [], spOvf := false, spActive := none, spReqFnc := none
      spLast := none, draws := t.draws }

/-! ## Link A -/

/-- MB_RX_BYTE appends the byte; the byte that overflows empties the buffer and is discarded (R251, R252). -/
def Obligations.MbRxByteBuffers : Prop :=
  ∀ (s : State) (b : Byte),
    (s.mbBuf.length = s.cfg.mbBufMax → exec (.mbRxByte b) s = .next { s with mbBuf := [] }) ∧
      (s.mbBuf.length ≠ s.cfg.mbBufMax → exec (.mbRxByte b) s = .next { s with mbBuf := s.mbBuf ++ [b] })

/-- MB_SILENCE in Idle changes nothing. -/
def Obligations.MbSilenceIdle : Prop :=
  ∀ s : State, s.mbBuf = [] → exec .mbSilence s = .next s

/-- A frame that is too short, for another slave, or has a wrong CRC is dropped without a response, and the framer
is Idle again (R255, R256, R257). -/
def Obligations.MbSilentDrops : Prop :=
  ∀ s : State,
    (s.mbBuf.length < 4 → exec .mbSilence s = .next s.mbEmptied) ∧
      (s.mbBuf ≠ [] → s.mbBuf.getD 0 0 ≠ s.cfg.mbSlaveAddr → exec .mbSilence s = .next s.mbEmptied) ∧
      (s.mbBuf ≠ [] →
        crcMb (s.mbBuf.take (s.mbBuf.length - 2)) ≠
            be16 (s.mbBuf.getD (s.mbBuf.length - 1) 0) (s.mbBuf.getD (s.mbBuf.length - 2) 0) →
          exec .mbSilence s = .next s.mbEmptied)

/-- A silence after a good request frame does what the request's row does, from the emptied buffer: any address
byte, any function code, any data. -/
def Obligations.MbSilenceRunsRequest : Prop :=
  ∀ (s : State) (i : Instr) (addr : Byte) (data : List Byte),
    (i = .mbFc03 addr data ∨ i = .mbFc06 addr data ∨ i = .mbFc10 addr data ∨
        ∃ fc, fc ≠ 0x03#8 ∧ fc ≠ 0x06#8 ∧ fc ≠ 0x10#8 ∧ i = .mbIllegal addr fc data) →
      s.mbBuf = (encode i).bytes → exec .mbSilence s = exec i s.mbEmptied

/-- MB_SILENCE completes, leaves the framer Idle and sends at most one frame. -/
def Obligations.MbSilenceOneFrame : Prop :=
  ∀ s : State, ∃ t, exec .mbSilence s = .next t ∧ t.mbBuf = [] ∧ (t.txA = s.txA ∨ ∃ f, t.txA = s.txA ++ [f])

/-- Function 0x03 answers the registers asked for, high byte first, and changes nothing else; the window of two
registers from the last one is outside the bank. -/
def Obligations.Fc03Reads : Prop :=
  ∀ (s : State) (addr : Byte), addr = s.cfg.mbSlaveAddr →
    (∀ start qty : Word, start.toNat + qty.toNat ≤ 224 → 1 ≤ qty.toNat → qty.toNat ≤ 125 →
        exec (.mbFc03 addr (wordBytes start ++ wordBytes qty)) s =
          .next (s.answered (withCrcMb ([addr, 0x03#8, BitVec.ofNat 8 (2 * qty.toNat)] ++
            (List.range qty.toNat).flatMap fun k =>
              [hi8 (s.reg (start.toNat + k)), lo8 (s.reg (start.toNat + k))])))) ∧
      exec (.mbFc03 addr [0x00, 0xDF, 0x00, 0x02]) s = .next (s.answered (withCrcMb [addr, 0x83#8, 0x02#8]))

/-- Function 0x03's checks: another length is dropped, a window outside the bank is exception 0x02 before any other
check, a bad quantity inside it is exception 0x03 (R261, R262, R263). -/
def Obligations.Fc03Refusals : Prop :=
  ∀ (s : State) (addr : Byte), addr = s.cfg.mbSlaveAddr →
    (∀ data : List Byte, data.length ≠ 4 → exec (.mbFc03 addr data) s = .next s) ∧
      ∀ start qty : Word,
        (start.toNat + qty.toNat > 224 →
            exec (.mbFc03 addr (wordBytes start ++ wordBytes qty)) s =
              .next (s.answered (withCrcMb [addr, 0x83#8, 0x02#8]))) ∧
          (start.toNat + qty.toNat ≤ 224 → (qty = 0 ∨ qty.toNat > 125) →
            exec (.mbFc03 addr (wordBytes start ++ wordBytes qty)) s =
              .next (s.answered (withCrcMb [addr, 0x83#8, 0x03#8])))

/-- Function 0x06 stores any value in a register of CTRL or WRITEW, asks for its persistence where the address is in
PERSIST, echoes the request, and changes nothing else (R267, R268). -/
def Obligations.Fc06Writes : Prop :=
  ∀ (s : State) (addr : Byte) (reg val : Word),
    addr = s.cfg.mbSlaveAddr → (inCtrl reg.toNat ∨ inWritew reg.toNat) →
      ∃ t, exec (.mbFc06 addr (wordBytes reg ++ wordBytes val)) s = .next t ∧
        (∀ a < 224, t.reg a = if a = reg.toNat then val else s.reg a) ∧
        (reg.toNat = s.cfg.cmdReg.val → t.cmd = val) ∧
        (∀ index, s.cfg.persist.lookup reg.toNat = some index → t.events = s.events ++ [.persist index val]) ∧
        (s.cfg.persist.lookup reg.toNat = none → t.events = s.events) ∧
        t.txA = s.txA ++ [requestFrame addr 0x06#8 (wordBytes reg ++ wordBytes val)] ∧
        t = { s with bank := t.bank, events := t.events, txA := t.txA }

/-- Function 0x06's checks: another length is dropped, READW and every address beyond the bank is exception 0x02
(R265, R266). -/
def Obligations.Fc06Refusals : Prop :=
  ∀ (s : State) (addr : Byte), addr = s.cfg.mbSlaveAddr →
    (∀ data : List Byte, data.length ≠ 4 → exec (.mbFc06 addr data) s = .next s) ∧
      ∀ reg val : Word, (inReadw reg.toNat ∨ reg.toNat ≥ 224) →
        exec (.mbFc06 addr (wordBytes reg ++ wordBytes val)) s =
          .next (s.answered (withCrcMb [addr, 0x86#8, 0x02#8]))

/-- Function 0x10 writes all its registers and no other, sets the actual byte count within its law, answers address
and count, and changes nothing else (R273, R274). -/
def Obligations.Fc10Writes : Prop :=
  ∀ (s : State) (addr : Byte) (start : Word) (ws : List Word),
    addr = s.cfg.mbSlaveAddr → 1 ≤ ws.length → ws.length ≤ 123 → 0x20 ≤ start.toNat →
      start.toNat + ws.length ≤ 224 →
        ∃ t, exec (.mbFc10 addr (wordBytes start ++ wordBytes (BitVec.ofNat 16 ws.length) ++
              [BitVec.ofNat 8 (2 * ws.length)] ++ wordsBytes ws)) s = .next t ∧
          (∀ a < 224, t.reg a =
            if start.toNat ≤ a ∧ a < start.toNat + ws.length then ws.getD (a - start.toNat) 0 else s.reg a) ∧
          t.mbActualLen.toNat = Config.padDiscount (wordsBytes ws) ∧
          t.mbActualLen.toNat ≤ 2 * ws.length ∧
          t.txA = s.txA ++
            [withCrcMb ([addr, 0x10#8] ++ wordBytes start ++ wordBytes (BitVec.ofNat 16 ws.length))] ∧
          t = { s with bank := t.bank, mbActualLen := t.mbActualLen, txA := t.txA }

/-- Function 0x10's checks in their order: no byte count is a drop, a bad count or quantity exception 0x03, a frame
of another length exception 0x03, a window in CTRL or beyond the bank exception 0x02 (R269 to R272). -/
def Obligations.Fc10Refusals : Prop :=
  ∀ (s : State) (addr : Byte), addr = s.cfg.mbSlaveAddr →
    (∀ data : List Byte, data.length < 5 → exec (.mbFc10 addr data) s = .next s) ∧
      ∀ (start qty : Word) (bc : Byte) (data : List Byte),
        ((bc.toNat ≠ 2 * qty.toNat ∨ qty = 0 ∨ qty.toNat > 123) →
            exec (.mbFc10 addr (wordBytes start ++ wordBytes qty ++ [bc] ++ data)) s =
              .next (s.answered (withCrcMb [addr, 0x90#8, 0x03#8]))) ∧
          (bc.toNat = 2 * qty.toNat → 1 ≤ qty.toNat → qty.toNat ≤ 123 → data.length ≠ bc.toNat →
            exec (.mbFc10 addr (wordBytes start ++ wordBytes qty ++ [bc] ++ data)) s =
              .next (s.answered (withCrcMb [addr, 0x90#8, 0x03#8]))) ∧
          (bc.toNat = 2 * qty.toNat → 1 ≤ qty.toNat → qty.toNat ≤ 123 → data.length = bc.toNat →
            (start.toNat < 0x20 ∨ start.toNat + qty.toNat > 224) →
            exec (.mbFc10 addr (wordBytes start ++ wordBytes qty ++ [bc] ++ data)) s =
              .next (s.answered (withCrcMb [addr, 0x90#8, 0x02#8])))

/-- Any other function code is exception 0x01, whatever the frame's length and data. -/
def Obligations.IllegalFunctionAnswers : Prop :=
  ∀ (s : State) (addr fc : Byte) (data : List Byte),
    addr = s.cfg.mbSlaveAddr → fc ≠ 0x03#8 → fc ≠ 0x06#8 → fc ≠ 0x10#8 →
      exec (.mbIllegal addr fc data) s = .next (s.answered (withCrcMb [addr, fc ||| 0x80#8, 0x01#8]))

/-- A request row for another slave's address changes nothing (R256). -/
def Obligations.OtherSlaveIgnored : Prop :=
  ∀ (s : State) (addr fc : Byte) (data : List Byte), addr ≠ s.cfg.mbSlaveAddr →
    exec (.mbFc03 addr data) s = .next s ∧ exec (.mbFc06 addr data) s = .next s ∧
      exec (.mbFc10 addr data) s = .next s ∧ exec (.mbIllegal addr fc data) s = .next s

/-- The exception response: address, function code with bit 7 set, code, CRC low byte first. -/
def Obligations.ExceptionResponse : Prop :=
  ∀ (s : State) (addr fc : Byte) (code : MbExc),
    exec (.mbExceptionRsp addr (fc.setWidth 7) code) s =
      .next (s.answered ([addr, fc ||| 0x80#8, excByte code] ++
        [lo8 (crcMb [addr, fc ||| 0x80#8, excByte code]), hi8 (crcMb [addr, fc ||| 0x80#8, excByte code])])) ∧
    excByte .illegalFunction = 0x01#8 ∧ excByte .illegalAddress = 0x02#8 ∧ excByte .illegalValue = 0x03#8

/-- The three good responses (R105, R106, R107). That a response row runs on its own, sends its frame and changes
nothing else is the model's choice (log 3). -/
def Obligations.GoodResponses : Prop :=
  ∀ (s : State) (addr : Byte) (a b : Word) (ws : List Word),
    exec (.mbFc03Rsp addr ws) s =
        .next (s.answered (withCrcMb ([addr, 0x03#8, BitVec.ofNat 8 (2 * ws.length)] ++
          ws.flatMap fun w => [hi8 w, lo8 w]))) ∧
      exec (.mbFc06Rsp addr a b) s =
        .next (s.answered (withCrcMb [addr, 0x06#8, hi8 a, lo8 a, hi8 b, lo8 b])) ∧
      exec (.mbFc10Rsp addr a b) s =
        .next (s.answered (withCrcMb [addr, 0x10#8, hi8 a, lo8 a, hi8 b, lo8 b]))

/-! ## Link B, receive -/

/-- SP_RX_BYTE appends the byte, or discards it and sets the overflow flag where the buffer is full; the next silence
then reports the overflow. -/
def Obligations.SpRxByteBuffers : Prop :=
  ∀ (s : State) (b : Byte),
    (s.spRx.length < s.cfg.spRxMax → exec (.spRxByte b) s = .next { s with spRx := s.spRx ++ [b] }) ∧
      (s.cfg.spRxMax ≤ s.spRx.length →
        exec (.spRxByte b) s = .next { s with spOvf := true } ∧
          exec .spSilence { s with spOvf := true } = .next (s.drainedWith s.cfg.errAlloc))

/-- An empty drain changes nothing, an overflow leaves ERR_ALLOC whatever was received, a short frame ERR_SHORT
(R201, R203, R202). -/
def Obligations.SpSilenceEarlyExits : Prop :=
  ∀ s : State,
    (s.spRx = [] → s.spOvf = false → exec .spSilence s = .next s) ∧
      (s.spOvf = true → exec .spSilence s = .next (s.drainedWith s.cfg.errAlloc)) ∧
      (s.spOvf = false → 1 ≤ s.spRx.length → s.spRx.length < 11 →
        exec .spSilence s = .next (s.drainedWith s.cfg.errShort))

/-- The checks of a received frame in their order, each leaving its status code and nothing else, and where all of
them pass the dispatch of the frame's fields (R205 to R210). -/
def Obligations.SpSilenceChecks : Prop :=
  ∀ (s : State) (d : Destuffed), s.spOvf = false → 11 ≤ s.spRx.length → d = destuff (stripSync s.spRx) →
    (d.marks = none → exec .spSilence s = .next (s.drainedWith s.cfg.errMarkers)) ∧
      ∀ stx etx, d.marks = some (stx, etx) →
        (d.out.length < etx + 3 → exec .spSilence s = .next (s.drainedWith s.cfg.errShort)) ∧
          (etx + 3 ≤ d.out.length →
            (crcSp (d.out.take (etx + 1)) ≠ be16 (d.out.getD (etx + 1) 0) (d.out.getD (etx + 2) 0) →
                exec .spSilence s = .next (s.drainedWith s.cfg.errCrc)) ∧
              (crcSp (d.out.take (etx + 1)) = be16 (d.out.getD (etx + 1) 0) (d.out.getD (etx + 2) 0) →
                (etx + 1 < 7 → exec .spSilence s = .next (s.drainedWith s.cfg.errShort)) ∧
                  (7 ≤ etx + 1 → d.out.getD 0 0 ≠ 0x01#8 →
                    exec .spSilence s = .next (s.drainedWith s.cfg.errMarkers)) ∧
                  (7 ≤ etx + 1 → d.out.getD 0 0 = 0x01#8 → stx < 5 →
                    exec .spSilence s = .next (s.drainedWith s.cfg.errMarkers)) ∧
                  (7 ≤ etx + 1 → d.out.getD 0 0 = 0x01#8 → 5 ≤ stx →
                    exec .spSilence s =
                      exec (.spFrame (d.out.getD 1 0) (d.out.getD 2 0) (d.out.getD 3 0) (d.out.getD 4 0)
                        ((d.out.take stx).drop 5) ((d.out.take etx).drop (stx + 1))) s.drained)))

/-- A well-formed frame on the wire is accepted, and the silence after it dispatches its own function byte and
payload from the emptied buffer. -/
def Obligations.SpSilenceAcceptsFrame : Prop :=
  ∀ (s : State) (dad sad isi fnc : Byte) (ext payload : List Byte),
    (Instr.spFrame dad sad isi fnc ext payload).wf = true → s.spOvf = false →
      s.spRx = (encode (.spFrame dad sad isi fnc ext payload)).bytes →
        exec .spSilence s = exec (.spFrame dad sad isi fnc ext payload) s.drained

/-- The number of leading sync bytes makes no difference. -/
def Obligations.SyncBytesIgnored : Prop :=
  ∀ (s : State) (body : List Byte) (j k : Nat), body.head? ≠ some 0xFF#8 →
    stripSync (List.replicate j 0xFF#8 ++ body) = body ∧
      (11 ≤ j + body.length → 11 ≤ k + body.length →
        exec .spSilence { s with spRx := List.replicate j 0xFF#8 ++ body, spOvf := false } =
          exec .spSilence { s with spRx := List.replicate k 0xFF#8 ++ body, spOvf := false })

/-- A frame whose CRC field is an escape pair is always rejected, whatever follows it: with ERR_MARKERS where the pair
or what follows holds another escaped STX or ETX, else with ERR_SHORT where no byte follows, else with ERR_CRC, the CRC
being misread (R466). -/
def Obligations.EscapePairCrcRejected : Prop :=
  ∀ (s : State) (p : SpFields) (m : Marker) (tail : List Byte),
    textReadable ([p.dad, p.sad, p.isi, p.fnc] ++ p.ext) = true → textReadable p.payload = true →
      hi8 (crcSp (logicalFrame p)) = 0x10#8 → lo8 (crcSp (logicalFrame p)) = markerByte m →
        s.spOvf = false → s.spRx = spWire p ++ tail →
          exec .spSilence s = .next (s.drainedWith
            (if m = .stx ∨ m = .etx ∨ .esc .stx ∈ tokens tail ∨ .esc .etx ∈ tokens tail then s.cfg.errMarkers
              else if tail = [] then s.cfg.errShort else s.cfg.errCrc))

/-- The command router: a matched key takes field mode even where raw mode is selected, an unmatched one raw mode
where it is selected, and otherwise the frame is dropped (R211, R117). No request's function byte matches nothing; that
raw mode still applies then, where R214 speaks of a drop, is the model's reading (log 22). -/
def Obligations.DispatchRoutes : Prop :=
  ∀ (s : State) (dad sad isi fnc : Byte) (ext payload : List Byte),
    (∀ r, s.spReqFnc = some r → be16 r fnc ∈ s.cfg.cmdTable →
        exec (.spFrame dad sad isi fnc ext payload) s = exec (.spFields payload) s) ∧
      ((∀ r, s.spReqFnc = some r → be16 r fnc ∉ s.cfg.cmdTable) →
        (∀ c, s.spActive = some c → hi8 c = 0xFF#8 →
            exec (.spFrame dad sad isi fnc ext payload) s = exec (.spRaw payload) s) ∧
          ((∀ c, s.spActive = some c → hi8 c ≠ 0xFF#8) →
            exec (.spFrame dad sad isi fnc ext payload) s = exec (.spUnmatched payload) s))

/-- The two rows that write nothing: a frame dropped as unmatched, and the sentinel command word (R214, R301). -/
def Obligations.NothingWritten : Prop :=
  ∀ (s : State) (payload : List Byte), exec (.spUnmatched payload) s = .next s ∧ exec .cmdSentinel s = .next s

/-- Field mode: of the first 20 records, as many as fit whole stand in READW as the field image, the first that does
not fit ends the packing, no other register changes but STATUS_REG where a success code is configured, and one
extraction request with the whole payload is made. Its id is the active command's; with no active command it is a
free value (log 12). -/
def Obligations.FieldModeWritesImage : Prop :=
  ∀ (s : State) (payload : List Byte),
    ∃ (t : State) (w : Nat) (tid : Byte), exec (.spFields payload) s = .next t ∧
      w ≤ ((segment s.cfg.rs payload).take 20).length ∧
      (fieldImage s.cfg.oddPlacement (((segment s.cfg.rs payload).take 20).take w)).length ≤ 96 ∧
      (w < ((segment s.cfg.rs payload).take 20).length →
        96 < (fieldImage s.cfg.oddPlacement (((segment s.cfg.rs payload).take 20).take (w + 1))).length) ∧
      (∀ a < 224, t.reg a =
        if 0x20 ≤ a ∧
            a < 0x20 + (fieldImage s.cfg.oddPlacement (((segment s.cfg.rs payload).take 20).take w)).length then
          (fieldImage s.cfg.oddPlacement (((segment s.cfg.rs payload).take 20).take w)).getD (a - 0x20) 0
        else if a = s.cfg.statusReg.val then s.successStatus
        else s.reg a) ∧
      (∀ c, s.spActive = some c → tid = lo8 c ∧ t.draws = s.draws) ∧
      t.events = s.events ++ [.tagExtract tid payload] ∧
      t = { s with bank := t.bank, events := t.events, draws := t.draws }

/-- Raw mode: up to 192 payload bytes stand in READW two to a register, high byte first, an odd last byte placed as
ODD_PLACEMENT says; no other register changes but STATUS_REG where a success code is configured, and no record is
made. -/
def Obligations.RawModeWritesImage : Prop :=
  ∀ (s : State) (payload : List Byte),
    ∃ t, exec (.spRaw payload) s = .next t ∧
      (∀ k, 2 * k + 1 < min payload.length 192 →
        t.reg (0x20 + k) = be16 (payload.getD (2 * k) 0) (payload.getD (2 * k + 1) 0)) ∧
      (∀ k, 2 * k + 1 = min payload.length 192 →
        t.reg (0x20 + k) =
          match s.cfg.oddPlacement with
          | .low => be16 0x00#8 (payload.getD (2 * k) 0)
          | .high => be16 (payload.getD (2 * k) 0) 0x00#8) ∧
      (∀ a < 224, (a < 0x20 ∨ 0x20 + (min payload.length 192 + 1) / 2 ≤ a) →
        t.reg a = if a = s.cfg.statusReg.val then s.successStatus else s.reg a) ∧
      t = { s with bank := t.bank }

/-- SEGMENT gives the records of the payload: none holds the separator, and with a separator after each they are the
payload, or the payload and one separator more where its last record had none. SUBFIELDS gives the spans of a record:
the first two hold no HT, and with the HTs that end them the spans are the record. -/
def Obligations.RecordsAndSpans : Prop :=
  (∀ (rs : Byte) (p : List Byte),
      (∀ r ∈ segment rs p, rs ∉ r) ∧
        (((segment rs p).flatMap fun r => r ++ [rs]) = p ∨
          (p ≠ [] ∧ p.getLast? ≠ some rs ∧ ((segment rs p).flatMap fun r => r ++ [rs]) = p ++ [rs]))) ∧
    ∀ r : List Byte,
      0x09#8 ∉ (subfields r).1 ∧ 0x09#8 ∉ (subfields r).2.1 ∧
        (r = (subfields r).1 ∧ (subfields r).2 = ([], []) ∨
          r = (subfields r).1 ++ [0x09#8] ++ (subfields r).2.1 ∧ (subfields r).2.2 = [] ∨
          r = (subfields r).1 ++ [0x09#8] ++ (subfields r).2.1 ++ [0x09#8] ++ (subfields r).2.2)

/-! ## Link B, requests -/

/-- SP_POLL with the sentinel in CMD_REG changes nothing; with a command it does what the command word's row does
and then puts the sentinel back, whatever came of the command (R301, R307). -/
def Obligations.PollIssuesAndConsumes : Prop :=
  ∀ s : State,
    (s.cmd = 0xFFFF#16 → exec .spPoll s = .next s) ∧
      (s.cmd ≠ 0xFFFF#16 → ∃ t, exec (decodeCommand s.cmd) s = .next t ∧
        exec .spPoll s = .next { t with bank := bankWrite t.bank s.cfg.cmdReg.val 0xFFFF#16 })

/-- After every poll the command register holds the sentinel, and no register changed but it and STATUS_REG. -/
def Obligations.PollLeavesSentinel : Prop :=
  ∀ s : State, ∃ t, exec .spPoll s = .next t ∧ t.cmd = 0xFFFF#16 ∧
    ∀ a < 224, a ≠ s.cfg.cmdReg.val → a ≠ s.cfg.statusReg.val → t.reg a = s.reg a

/-- ISSUE of a command whose template is read, present and short enough sends the request and remembers the command
and the request's function byte (R302, R304, R306); both command rows, every mode. -/
def Obligations.IssueSendsRequest : Prop :=
  ∀ (s : State) (i : Instr) (mode tid : Byte) (htid : tid.toNat < 42) (record payload body : List Byte),
    (i = .cmdIssue mode tid ∨ (mode = 0xFF#8 ∧ i = .cmdIssueRaw tid)) →
      s.readFails = false → record = s.template .req ⟨tid.toNat, htid⟩ → (record.getD 0 0).toNat ≤ 95 →
      payload = (record.drop 1).take (record.getD 0 0).toNat →
      body = [0x01#8, s.cfg.spDad, s.cfg.spSad, 0x1F#8] ++ payload →
      (stuffBytes body).length ≤ s.cfg.spTxMax - 4 →
        exec i s = .next { s.drawn with
          txB := s.txB ++ [[0xFF#8, 0xFF#8] ++ stuffBytes body ++ [hi8 (crcSp body), lo8 (crcSp body)]]
          spActive := some (be16 mode tid)
          spLast := some (be16 mode tid)
          spReqFnc := payload.head? }

/-- ISSUE of a command with no usable template sends and changes nothing: an id over 41 without a read, a failed
read, an absent record, a length past the record. -/
def Obligations.IssueStorageErrors : Prop :=
  ∀ (s : State) (i : Instr) (mode tid : Byte),
    (i = .cmdIssue mode tid ∨ (mode = 0xFF#8 ∧ i = .cmdIssueRaw tid)) →
      (41 < tid.toNat → exec i s = .next s) ∧
        ∀ htid : tid.toNat < 42,
          (s.readFails = true ∨ ((s.template .req ⟨tid.toNat, htid⟩).getD 0 0).toNat = 0xFF ∨
            95 < ((s.template .req ⟨tid.toNat, htid⟩).getD 0 0).toNat) → exec i s = .next s.drawn

/-- ISSUE of a request that does not fit SP_TX_MAX leaves ERR_ALLOC and sends nothing; a request has at most 99 bytes
and stuffs to at most 198, so with SP_TX_MAX = 512 this cannot happen and no issue writes the bank (R305). The draw
that decides whether the template is read is the model's own field (log 8). -/
def Obligations.IssueCapacity : Prop :=
  ∀ (s : State) (i : Instr) (mode tid : Byte) (htid : tid.toNat < 42) (record body : List Byte),
    (i = .cmdIssue mode tid ∨ (mode = 0xFF#8 ∧ i = .cmdIssueRaw tid)) →
      record = s.template .req ⟨tid.toNat, htid⟩ →
      body = [0x01#8, s.cfg.spDad, s.cfg.spSad, 0x1F#8] ++ (record.drop 1).take (record.getD 0 0).toNat →
      (s.readFails = false → (record.getD 0 0).toNat ≤ 95 → s.cfg.spTxMax - 4 < (stuffBytes body).length →
        exec i s = .next { s.drawn with bank := bankWrite s.bank s.cfg.statusReg.val s.cfg.errAlloc }) ∧
      ((record.getD 0 0).toNat ≤ 95 → body.length ≤ 99 ∧ (stuffBytes body).length ≤ 198) ∧
      (s.cfg.spTxMax = 512 → ∃ t, exec i s = .next t ∧ t.bank = s.bank)

/-- SP_REPEAT_DUE issues the last command again where none is pending, and otherwise does nothing; it never changes
CMD_REG (R308, R309). -/
def Obligations.RepeatReissues : Prop :=
  ∀ s : State,
    (∀ c, s.cmd = 0xFFFF#16 → s.spLast = some c → exec .spRepeatDue s = exec (decodeCommand c) s) ∧
      (s.cmd ≠ 0xFFFF#16 ∨ s.spLast = none → exec .spRepeatDue s = .next s) ∧
      (s.cfg.cmdReg ≠ s.cfg.statusReg → ∃ t, exec .spRepeatDue s = .next t ∧ t.cmd = s.cmd)

/-- A response does not clear the command it is dispatched under. -/
def Obligations.ResponseKeepsCommand : Prop :=
  ∀ s : State, ∃ t, exec .spSilence s = .next t ∧ t.spRx = [] ∧ t.spOvf = false ∧ t.spActive = s.spActive ∧
    t.spReqFnc = s.spReqFnc ∧ t.spLast = s.spLast ∧ t.txA = s.txA ∧ t.txB = s.txB

/-! ## Units -/

/-- STUFF returns its output where it fits and CAPACITY with no output where it does not, and changes no block
state. The output is, byte for byte, a DLE and the byte for each of the four markers, and the byte for any other
(R151, R152). -/
def Obligations.StuffReturns : Prop :=
  stuffBytes [] = [] ∧
    (∀ (b : Byte) (x : List Byte),
      stuffBytes (b :: x) =
        (if b ∈ [0x01#8, 0x02#8, 0x03#8, 0x1F#8] then [0x10#8, b] else [b]) ++ stuffBytes x) ∧
    ∀ (s : State) (cap : Nat) (x : List Byte),
      ((stuffBytes x).length ≤ cap →
          exec (.stuff cap x) s = .next { s with result := some (.stuffed (some (stuffBytes x))) }) ∧
        (cap < (stuffBytes x).length → exec (.stuff cap x) s = .next { s with result := some (.stuffed none) })

/-- The stuffed sequence is one byte longer for each marker byte of the input. -/
def Obligations.StuffLength : Prop :=
  ∀ x : List Byte,
    (stuffBytes x).length = x.length + x.countP (fun b => b ∈ [0x01#8, 0x02#8, 0x03#8, 0x1F#8]) ∧
      x.length ≤ (stuffBytes x).length ∧ (stuffBytes x).length ≤ 2 * x.length

/-- Destuffing what was stuffed gives the bytes back; the verdict is OK exactly where they hold one STX and one ETX
with the STX first. -/
def Obligations.StuffRoundTrip : Prop :=
  ∀ (x out : List Byte) (cap : Nat), stuff x cap = some out →
    (destuff out).out = x ∧
      ((destuff out).marks ≠ none ↔
        x.count 0x02#8 = 1 ∧ x.count 0x03#8 = 1 ∧ x.idxOf 0x02#8 < x.idxOf 0x03#8)

/-- The tokens of a buffer are the buffer, byte for byte, and a literal DLE never stands before a literal marker
byte. -/
def Obligations.TokensReadBuffer : Prop :=
  ∀ buf : List Byte,
    (tokens buf).flatMap tokenWire = buf ∧
      (tokens buf).IsChain (fun t u => ¬ (t = .literal 0x10#8 ∧ ∃ b, u = .literal b ∧ markerOf b ≠ none))

/-- DESTUFF returns one byte for each token, and reports positions exactly where one escaped STX stands before one
escaped ETX and no other of either is there. -/
def Obligations.DestuffVerdict : Prop :=
  ∀ (s : State) (buf : List Byte),
    ∃ d : Destuffed, exec (.destuff buf) s = .next { s with result := some (.destuffed d) } ∧
      d.out = (tokens buf).map tokenByte ∧ d.out.length ≤ buf.length ∧
      ∀ stx etx, d.marks = some (stx, etx) ↔
        (tokens buf).count (.esc .stx) = 1 ∧ (tokens buf).count (.esc .etx) = 1 ∧
          stx = (tokens buf).idxOf (.esc .stx) ∧ etx = (tokens buf).idxOf (.esc .etx) ∧ stx < etx

/-- The stuffing tokens: each one's logical byte, and which of them count as the frame's STX and ETX. -/
def Obligations.TokenMeanings : Prop :=
  ∀ (s : State) (b : Byte),
    exec .escSoh s = .next { s with result := some (.token 0x01#8 false false) } ∧
      exec .escStx s = .next { s with result := some (.token 0x02#8 true false) } ∧
      exec .escEtx s = .next { s with result := some (.token 0x03#8 false true) } ∧
      exec .escIsi s = .next { s with result := some (.token 0x1F#8 false false) } ∧
      exec (.literal b) s = .next { s with result := some (.token b false false) }

/-- The CRC operations return their CRC and change no block state; the spec's example values. -/
def Obligations.CrcReturns : Prop :=
  (∀ (s : State) (x : List Byte),
      exec (.crcMb x) s = .next { s with result := some (.word (crcMb x)) } ∧
        exec (.crcSp x) s = .next { s with result := some (.word (crcSp x)) }) ∧
    crcMb [] = 0xFFFF#16 ∧ crcSp [] = 0x0000#16 ∧
    crcMb [0x01, 0x03, 0x00, 0x00, 0x00, 0x0A] = 0xCDC5#16 ∧
    crcSp [0x31, 0x32, 0x33, 0x34, 0x35, 0x36, 0x37, 0x38, 0x39] = 0x31C3#16

/-- Any sequence followed by its own CRC in wire order has CRC zero, on either link. -/
def Obligations.CrcResidue : Prop :=
  ∀ x : List Byte,
    crcMb (x ++ [lo8 (crcMb x), hi8 (crcMb x)]) = 0 ∧ crcSp (x ++ [hi8 (crcSp x), lo8 (crcSp x)]) = 0

/-- What a template record says: absent, a payload of LEN bytes, or a length past the record (R121). That the row
runs on its own, leaves a value and changes no block state is the model's choice (log 3, log 10). -/
def Obligations.TemplateRecordView : Prop :=
  ∀ (s : State) (len : Byte) (rest : List Byte), rest.length = 95 →
    (len = 0xFF#8 →
        exec (.templateRecord (len :: rest)) s = .next { s with result := some (.record .absent) }) ∧
      (len.toNat ≤ 95 →
        exec (.templateRecord (len :: rest)) s =
          .next { s with result := some (.record (.payload (rest.take len.toNat))) }) ∧
      (95 < len.toNat → len ≠ 0xFF#8 →
        exec (.templateRecord (len :: rest)) s = .next { s with result := some (.record .badLength) })

/-! ## The host port -/

/-- The host's reads return their value and change no block state. -/
def Obligations.HostReads : Prop :=
  ∀ (s : State) (a : Fin 224),
    exec (.hostRd a) s = .next { s with result := some (.word (s.reg a.val)) } ∧
      exec .hostRdActual s = .next { s with result := some (.word s.mbActualLen) }

/-- A host write stores the value in the register it names, of any region, and changes nothing else. -/
def Obligations.HostWrites : Prop :=
  ∀ (s : State) (a : Fin 224) (v : Word),
    ∃ t, exec (.hostWr a v) s = .next t ∧ (∀ c < 224, t.reg c = if c = a.val then v else s.reg c) ∧
      t = { s with bank := t.bank }

/-- A template write replaces one record and no other, and the record is read back as it was written. A record that
is not 96 bytes is no form of the row: the model stops (log 13). -/
def Obligations.HostTemplateWrites : Prop :=
  ∀ (s : State) (ns : Ns) (id : Fin 42) (bytes : List Byte),
    (bytes.length = 96 →
        ∃ t, exec (.hostTmplWr ns id bytes) s = .next t ∧ t.template ns id = bytes ∧
          (∀ ns' id', (ns', id') ≠ (ns, id) → t.template ns' id' = s.template ns' id') ∧
          t = { s with templates := t.templates }) ∧
      (bytes.length ≠ 96 → exec (.hostTmplWr ns id bytes) s = .fault (.recordNotOfRecordSize bytes.length))
end

