-- ==== Sys2Proof/Laws/State.lean ====
section
/-! SUPPORT. One lemma per field per update of the state, so that no later proof unfolds a record update. -/

namespace Sys2Proof.Machine.State

variable (s : State)

/-! ## setReg -/

@[simp] theorem setReg_cfg (a : Nat) (v : Word) : (s.setReg a v).cfg = s.cfg := rfl
@[simp] theorem setReg_bank (a : Nat) (v : Word) : (s.setReg a v).bank = bankWrite s.bank a v := rfl
@[simp] theorem setReg_mbBuf (a : Nat) (v : Word) : (s.setReg a v).mbBuf = s.mbBuf := rfl
@[simp] theorem setReg_mbActualLen (a : Nat) (v : Word) : (s.setReg a v).mbActualLen = s.mbActualLen := rfl
@[simp] theorem setReg_spRx (a : Nat) (v : Word) : (s.setReg a v).spRx = s.spRx := rfl
@[simp] theorem setReg_spOvf (a : Nat) (v : Word) : (s.setReg a v).spOvf = s.spOvf := rfl
@[simp] theorem setReg_spActive (a : Nat) (v : Word) : (s.setReg a v).spActive = s.spActive := rfl
@[simp] theorem setReg_spReqFnc (a : Nat) (v : Word) : (s.setReg a v).spReqFnc = s.spReqFnc := rfl
@[simp] theorem setReg_spLast (a : Nat) (v : Word) : (s.setReg a v).spLast = s.spLast := rfl
@[simp] theorem setReg_txA (a : Nat) (v : Word) : (s.setReg a v).txA = s.txA := rfl
@[simp] theorem setReg_txB (a : Nat) (v : Word) : (s.setReg a v).txB = s.txB := rfl
@[simp] theorem setReg_events (a : Nat) (v : Word) : (s.setReg a v).events = s.events := rfl
@[simp] theorem setReg_templates (a : Nat) (v : Word) : (s.setReg a v).templates = s.templates := rfl
@[simp] theorem setReg_storeAnswers (a : Nat) (v : Word) : (s.setReg a v).storeAnswers = s.storeAnswers := rfl
@[simp] theorem setReg_draws (a : Nat) (v : Word) : (s.setReg a v).draws = s.draws := rfl
@[simp] theorem setReg_result (a : Nat) (v : Word) : (s.setReg a v).result = s.result := rfl
@[simp] theorem setReg_inbox (a : Nat) (v : Word) : (s.setReg a v).inbox = s.inbox := rfl

/-! ## setRegs -/

@[simp] theorem setRegs_cfg (a : Nat) (ws : List Word) : (s.setRegs a ws).cfg = s.cfg := rfl
@[simp] theorem setRegs_bank (a : Nat) (ws : List Word) : (s.setRegs a ws).bank = memWrite s.bank a ws := rfl
@[simp] theorem setRegs_mbBuf (a : Nat) (ws : List Word) : (s.setRegs a ws).mbBuf = s.mbBuf := rfl
@[simp] theorem setRegs_mbActualLen (a : Nat) (ws : List Word) : (s.setRegs a ws).mbActualLen = s.mbActualLen := rfl
@[simp] theorem setRegs_spRx (a : Nat) (ws : List Word) : (s.setRegs a ws).spRx = s.spRx := rfl
@[simp] theorem setRegs_spOvf (a : Nat) (ws : List Word) : (s.setRegs a ws).spOvf = s.spOvf := rfl
@[simp] theorem setRegs_spActive (a : Nat) (ws : List Word) : (s.setRegs a ws).spActive = s.spActive := rfl
@[simp] theorem setRegs_spReqFnc (a : Nat) (ws : List Word) : (s.setRegs a ws).spReqFnc = s.spReqFnc := rfl
@[simp] theorem setRegs_spLast (a : Nat) (ws : List Word) : (s.setRegs a ws).spLast = s.spLast := rfl
@[simp] theorem setRegs_txA (a : Nat) (ws : List Word) : (s.setRegs a ws).txA = s.txA := rfl
@[simp] theorem setRegs_txB (a : Nat) (ws : List Word) : (s.setRegs a ws).txB = s.txB := rfl
@[simp] theorem setRegs_events (a : Nat) (ws : List Word) : (s.setRegs a ws).events = s.events := rfl
@[simp] theorem setRegs_templates (a : Nat) (ws : List Word) : (s.setRegs a ws).templates = s.templates := rfl
@[simp] theorem setRegs_storeAnswers (a : Nat) (ws : List Word) : (s.setRegs a ws).storeAnswers = s.storeAnswers := rfl
@[simp] theorem setRegs_draws (a : Nat) (ws : List Word) : (s.setRegs a ws).draws = s.draws := rfl
@[simp] theorem setRegs_result (a : Nat) (ws : List Word) : (s.setRegs a ws).result = s.result := rfl
@[simp] theorem setRegs_inbox (a : Nat) (ws : List Word) : (s.setRegs a ws).inbox = s.inbox := rfl

/-! ## setCmd -/

@[simp] theorem setCmd_cfg (v : Word) : (s.setCmd v).cfg = s.cfg := rfl
@[simp] theorem setCmd_bank (v : Word) : (s.setCmd v).bank = bankWrite s.bank s.cfg.cmdReg.val v := rfl
@[simp] theorem setCmd_mbBuf (v : Word) : (s.setCmd v).mbBuf = s.mbBuf := rfl
@[simp] theorem setCmd_mbActualLen (v : Word) : (s.setCmd v).mbActualLen = s.mbActualLen := rfl
@[simp] theorem setCmd_spRx (v : Word) : (s.setCmd v).spRx = s.spRx := rfl
@[simp] theorem setCmd_spOvf (v : Word) : (s.setCmd v).spOvf = s.spOvf := rfl
@[simp] theorem setCmd_spActive (v : Word) : (s.setCmd v).spActive = s.spActive := rfl
@[simp] theorem setCmd_spReqFnc (v : Word) : (s.setCmd v).spReqFnc = s.spReqFnc := rfl
@[simp] theorem setCmd_spLast (v : Word) : (s.setCmd v).spLast = s.spLast := rfl
@[simp] theorem setCmd_txA (v : Word) : (s.setCmd v).txA = s.txA := rfl
@[simp] theorem setCmd_txB (v : Word) : (s.setCmd v).txB = s.txB := rfl
@[simp] theorem setCmd_events (v : Word) : (s.setCmd v).events = s.events := rfl
@[simp] theorem setCmd_templates (v : Word) : (s.setCmd v).templates = s.templates := rfl
@[simp] theorem setCmd_storeAnswers (v : Word) : (s.setCmd v).storeAnswers = s.storeAnswers := rfl
@[simp] theorem setCmd_draws (v : Word) : (s.setCmd v).draws = s.draws := rfl
@[simp] theorem setCmd_result (v : Word) : (s.setCmd v).result = s.result := rfl
@[simp] theorem setCmd_inbox (v : Word) : (s.setCmd v).inbox = s.inbox := rfl

/-! ## setStatus -/

@[simp] theorem setStatus_cfg (v : Word) : (s.setStatus v).cfg = s.cfg := rfl
@[simp] theorem setStatus_bank (v : Word) : (s.setStatus v).bank = bankWrite s.bank s.cfg.statusReg.val v := rfl
@[simp] theorem setStatus_mbBuf (v : Word) : (s.setStatus v).mbBuf = s.mbBuf := rfl
@[simp] theorem setStatus_mbActualLen (v : Word) : (s.setStatus v).mbActualLen = s.mbActualLen := rfl
@[simp] theorem setStatus_spRx (v : Word) : (s.setStatus v).spRx = s.spRx := rfl
@[simp] theorem setStatus_spOvf (v : Word) : (s.setStatus v).spOvf = s.spOvf := rfl
@[simp] theorem setStatus_spActive (v : Word) : (s.setStatus v).spActive = s.spActive := rfl
@[simp] theorem setStatus_spReqFnc (v : Word) : (s.setStatus v).spReqFnc = s.spReqFnc := rfl
@[simp] theorem setStatus_spLast (v : Word) : (s.setStatus v).spLast = s.spLast := rfl
@[simp] theorem setStatus_txA (v : Word) : (s.setStatus v).txA = s.txA := rfl
@[simp] theorem setStatus_txB (v : Word) : (s.setStatus v).txB = s.txB := rfl
@[simp] theorem setStatus_events (v : Word) : (s.setStatus v).events = s.events := rfl
@[simp] theorem setStatus_templates (v : Word) : (s.setStatus v).templates = s.templates := rfl
@[simp] theorem setStatus_storeAnswers (v : Word) : (s.setStatus v).storeAnswers = s.storeAnswers := rfl
@[simp] theorem setStatus_draws (v : Word) : (s.setStatus v).draws = s.draws := rfl
@[simp] theorem setStatus_result (v : Word) : (s.setStatus v).result = s.result := rfl
@[simp] theorem setStatus_inbox (v : Word) : (s.setStatus v).inbox = s.inbox := rfl

/-! ## dropSp -/

@[simp] theorem dropSp_eq (e : SpDrop) : s.dropSp e = s := rfl

/-! ## abandonSp -/

@[simp] theorem abandonSp_cfg (e : SpError) : (s.abandonSp e).cfg = s.cfg := rfl
@[simp] theorem abandonSp_bank (e : SpError) : (s.abandonSp e).bank = bankWrite s.bank s.cfg.statusReg.val (spErrorStatus s.cfg e) := rfl
@[simp] theorem abandonSp_mbBuf (e : SpError) : (s.abandonSp e).mbBuf = s.mbBuf := rfl
@[simp] theorem abandonSp_mbActualLen (e : SpError) : (s.abandonSp e).mbActualLen = s.mbActualLen := rfl
@[simp] theorem abandonSp_spRx (e : SpError) : (s.abandonSp e).spRx = s.spRx := rfl
@[simp] theorem abandonSp_spOvf (e : SpError) : (s.abandonSp e).spOvf = s.spOvf := rfl
@[simp] theorem abandonSp_spActive (e : SpError) : (s.abandonSp e).spActive = s.spActive := rfl
@[simp] theorem abandonSp_spReqFnc (e : SpError) : (s.abandonSp e).spReqFnc = s.spReqFnc := rfl
@[simp] theorem abandonSp_spLast (e : SpError) : (s.abandonSp e).spLast = s.spLast := rfl
@[simp] theorem abandonSp_txA (e : SpError) : (s.abandonSp e).txA = s.txA := rfl
@[simp] theorem abandonSp_txB (e : SpError) : (s.abandonSp e).txB = s.txB := rfl
@[simp] theorem abandonSp_events (e : SpError) : (s.abandonSp e).events = s.events := rfl
@[simp] theorem abandonSp_templates (e : SpError) : (s.abandonSp e).templates = s.templates := rfl
@[simp] theorem abandonSp_storeAnswers (e : SpError) : (s.abandonSp e).storeAnswers = s.storeAnswers := rfl
@[simp] theorem abandonSp_draws (e : SpError) : (s.abandonSp e).draws = s.draws := rfl
@[simp] theorem abandonSp_result (e : SpError) : (s.abandonSp e).result = s.result := rfl
@[simp] theorem abandonSp_inbox (e : SpError) : (s.abandonSp e).inbox = s.inbox := rfl

/-! ## emitA -/

@[simp] theorem emitA_cfg (f : List Byte) : (s.emitA f).cfg = s.cfg := rfl
@[simp] theorem emitA_bank (f : List Byte) : (s.emitA f).bank = s.bank := rfl
@[simp] theorem emitA_mbBuf (f : List Byte) : (s.emitA f).mbBuf = s.mbBuf := rfl
@[simp] theorem emitA_mbActualLen (f : List Byte) : (s.emitA f).mbActualLen = s.mbActualLen := rfl
@[simp] theorem emitA_spRx (f : List Byte) : (s.emitA f).spRx = s.spRx := rfl
@[simp] theorem emitA_spOvf (f : List Byte) : (s.emitA f).spOvf = s.spOvf := rfl
@[simp] theorem emitA_spActive (f : List Byte) : (s.emitA f).spActive = s.spActive := rfl
@[simp] theorem emitA_spReqFnc (f : List Byte) : (s.emitA f).spReqFnc = s.spReqFnc := rfl
@[simp] theorem emitA_spLast (f : List Byte) : (s.emitA f).spLast = s.spLast := rfl
@[simp] theorem emitA_txA (f : List Byte) : (s.emitA f).txA = s.txA ++ [f] := rfl
@[simp] theorem emitA_txB (f : List Byte) : (s.emitA f).txB = s.txB := rfl
@[simp] theorem emitA_events (f : List Byte) : (s.emitA f).events = s.events := rfl
@[simp] theorem emitA_templates (f : List Byte) : (s.emitA f).templates = s.templates := rfl
@[simp] theorem emitA_storeAnswers (f : List Byte) : (s.emitA f).storeAnswers = s.storeAnswers := rfl
@[simp] theorem emitA_draws (f : List Byte) : (s.emitA f).draws = s.draws := rfl
@[simp] theorem emitA_result (f : List Byte) : (s.emitA f).result = s.result := rfl
@[simp] theorem emitA_inbox (f : List Byte) : (s.emitA f).inbox = s.inbox := rfl

/-! ## emitB -/

@[simp] theorem emitB_cfg (f : List Byte) : (s.emitB f).cfg = s.cfg := rfl
@[simp] theorem emitB_bank (f : List Byte) : (s.emitB f).bank = s.bank := rfl
@[simp] theorem emitB_mbBuf (f : List Byte) : (s.emitB f).mbBuf = s.mbBuf := rfl
@[simp] theorem emitB_mbActualLen (f : List Byte) : (s.emitB f).mbActualLen = s.mbActualLen := rfl
@[simp] theorem emitB_spRx (f : List Byte) : (s.emitB f).spRx = s.spRx := rfl
@[simp] theorem emitB_spOvf (f : List Byte) : (s.emitB f).spOvf = s.spOvf := rfl
@[simp] theorem emitB_spActive (f : List Byte) : (s.emitB f).spActive = s.spActive := rfl
@[simp] theorem emitB_spReqFnc (f : List Byte) : (s.emitB f).spReqFnc = s.spReqFnc := rfl
@[simp] theorem emitB_spLast (f : List Byte) : (s.emitB f).spLast = s.spLast := rfl
@[simp] theorem emitB_txA (f : List Byte) : (s.emitB f).txA = s.txA := rfl
@[simp] theorem emitB_txB (f : List Byte) : (s.emitB f).txB = s.txB ++ [f] := rfl
@[simp] theorem emitB_events (f : List Byte) : (s.emitB f).events = s.events := rfl
@[simp] theorem emitB_templates (f : List Byte) : (s.emitB f).templates = s.templates := rfl
@[simp] theorem emitB_storeAnswers (f : List Byte) : (s.emitB f).storeAnswers = s.storeAnswers := rfl
@[simp] theorem emitB_draws (f : List Byte) : (s.emitB f).draws = s.draws := rfl
@[simp] theorem emitB_result (f : List Byte) : (s.emitB f).result = s.result := rfl
@[simp] theorem emitB_inbox (f : List Byte) : (s.emitB f).inbox = s.inbox := rfl

/-! ## record -/

@[simp] theorem record_cfg (e : Event) : (s.record e).cfg = s.cfg := rfl
@[simp] theorem record_bank (e : Event) : (s.record e).bank = s.bank := rfl
@[simp] theorem record_mbBuf (e : Event) : (s.record e).mbBuf = s.mbBuf := rfl
@[simp] theorem record_mbActualLen (e : Event) : (s.record e).mbActualLen = s.mbActualLen := rfl
@[simp] theorem record_spRx (e : Event) : (s.record e).spRx = s.spRx := rfl
@[simp] theorem record_spOvf (e : Event) : (s.record e).spOvf = s.spOvf := rfl
@[simp] theorem record_spActive (e : Event) : (s.record e).spActive = s.spActive := rfl
@[simp] theorem record_spReqFnc (e : Event) : (s.record e).spReqFnc = s.spReqFnc := rfl
@[simp] theorem record_spLast (e : Event) : (s.record e).spLast = s.spLast := rfl
@[simp] theorem record_txA (e : Event) : (s.record e).txA = s.txA := rfl
@[simp] theorem record_txB (e : Event) : (s.record e).txB = s.txB := rfl
@[simp] theorem record_events (e : Event) : (s.record e).events = s.events ++ [e] := rfl
@[simp] theorem record_templates (e : Event) : (s.record e).templates = s.templates := rfl
@[simp] theorem record_storeAnswers (e : Event) : (s.record e).storeAnswers = s.storeAnswers := rfl
@[simp] theorem record_draws (e : Event) : (s.record e).draws = s.draws := rfl
@[simp] theorem record_result (e : Event) : (s.record e).result = s.result := rfl
@[simp] theorem record_inbox (e : Event) : (s.record e).inbox = s.inbox := rfl

/-! ## returns -/

@[simp] theorem returns_cfg (v : Value) : (s.returns v).cfg = s.cfg := rfl
@[simp] theorem returns_bank (v : Value) : (s.returns v).bank = s.bank := rfl
@[simp] theorem returns_mbBuf (v : Value) : (s.returns v).mbBuf = s.mbBuf := rfl
@[simp] theorem returns_mbActualLen (v : Value) : (s.returns v).mbActualLen = s.mbActualLen := rfl
@[simp] theorem returns_spRx (v : Value) : (s.returns v).spRx = s.spRx := rfl
@[simp] theorem returns_spOvf (v : Value) : (s.returns v).spOvf = s.spOvf := rfl
@[simp] theorem returns_spActive (v : Value) : (s.returns v).spActive = s.spActive := rfl
@[simp] theorem returns_spReqFnc (v : Value) : (s.returns v).spReqFnc = s.spReqFnc := rfl
@[simp] theorem returns_spLast (v : Value) : (s.returns v).spLast = s.spLast := rfl
@[simp] theorem returns_txA (v : Value) : (s.returns v).txA = s.txA := rfl
@[simp] theorem returns_txB (v : Value) : (s.returns v).txB = s.txB := rfl
@[simp] theorem returns_events (v : Value) : (s.returns v).events = s.events := rfl
@[simp] theorem returns_templates (v : Value) : (s.returns v).templates = s.templates := rfl
@[simp] theorem returns_storeAnswers (v : Value) : (s.returns v).storeAnswers = s.storeAnswers := rfl
@[simp] theorem returns_draws (v : Value) : (s.returns v).draws = s.draws := rfl
@[simp] theorem returns_result (v : Value) : (s.returns v).result = some v := rfl
@[simp] theorem returns_inbox (v : Value) : (s.returns v).inbox = s.inbox := rfl

/-! ## withResult -/

@[simp] theorem withResult_cfg (r : Option Value) : (s.withResult r).cfg = s.cfg := rfl
@[simp] theorem withResult_bank (r : Option Value) : (s.withResult r).bank = s.bank := rfl
@[simp] theorem withResult_mbBuf (r : Option Value) : (s.withResult r).mbBuf = s.mbBuf := rfl
@[simp] theorem withResult_mbActualLen (r : Option Value) : (s.withResult r).mbActualLen = s.mbActualLen := rfl
@[simp] theorem withResult_spRx (r : Option Value) : (s.withResult r).spRx = s.spRx := rfl
@[simp] theorem withResult_spOvf (r : Option Value) : (s.withResult r).spOvf = s.spOvf := rfl
@[simp] theorem withResult_spActive (r : Option Value) : (s.withResult r).spActive = s.spActive := rfl
@[simp] theorem withResult_spReqFnc (r : Option Value) : (s.withResult r).spReqFnc = s.spReqFnc := rfl
@[simp] theorem withResult_spLast (r : Option Value) : (s.withResult r).spLast = s.spLast := rfl
@[simp] theorem withResult_txA (r : Option Value) : (s.withResult r).txA = s.txA := rfl
@[simp] theorem withResult_txB (r : Option Value) : (s.withResult r).txB = s.txB := rfl
@[simp] theorem withResult_events (r : Option Value) : (s.withResult r).events = s.events := rfl
@[simp] theorem withResult_templates (r : Option Value) : (s.withResult r).templates = s.templates := rfl
@[simp] theorem withResult_storeAnswers (r : Option Value) : (s.withResult r).storeAnswers = s.storeAnswers := rfl
@[simp] theorem withResult_draws (r : Option Value) : (s.withResult r).draws = s.draws := rfl
@[simp] theorem withResult_result (r : Option Value) : (s.withResult r).result = r := rfl
@[simp] theorem withResult_inbox (r : Option Value) : (s.withResult r).inbox = s.inbox := rfl

/-! ## abandonMb -/

@[simp] theorem abandonMb_cfg (f : List Byte) (e : MbError) : (s.abandonMb f e).cfg = s.cfg := by unfold abandonMb; split <;> rfl
@[simp] theorem abandonMb_bank (f : List Byte) (e : MbError) : (s.abandonMb f e).bank = s.bank := by unfold abandonMb; split <;> rfl
@[simp] theorem abandonMb_mbBuf (f : List Byte) (e : MbError) : (s.abandonMb f e).mbBuf = s.mbBuf := by unfold abandonMb; split <;> rfl
@[simp] theorem abandonMb_mbActualLen (f : List Byte) (e : MbError) : (s.abandonMb f e).mbActualLen = s.mbActualLen := by unfold abandonMb; split <;> rfl
@[simp] theorem abandonMb_spRx (f : List Byte) (e : MbError) : (s.abandonMb f e).spRx = s.spRx := by unfold abandonMb; split <;> rfl
@[simp] theorem abandonMb_spOvf (f : List Byte) (e : MbError) : (s.abandonMb f e).spOvf = s.spOvf := by unfold abandonMb; split <;> rfl
@[simp] theorem abandonMb_spActive (f : List Byte) (e : MbError) : (s.abandonMb f e).spActive = s.spActive := by unfold abandonMb; split <;> rfl
@[simp] theorem abandonMb_spReqFnc (f : List Byte) (e : MbError) : (s.abandonMb f e).spReqFnc = s.spReqFnc := by unfold abandonMb; split <;> rfl
@[simp] theorem abandonMb_spLast (f : List Byte) (e : MbError) : (s.abandonMb f e).spLast = s.spLast := by unfold abandonMb; split <;> rfl
@[simp] theorem abandonMb_txB (f : List Byte) (e : MbError) : (s.abandonMb f e).txB = s.txB := by unfold abandonMb; split <;> rfl
@[simp] theorem abandonMb_events (f : List Byte) (e : MbError) : (s.abandonMb f e).events = s.events := by unfold abandonMb; split <;> rfl
@[simp] theorem abandonMb_templates (f : List Byte) (e : MbError) : (s.abandonMb f e).templates = s.templates := by unfold abandonMb; split <;> rfl
@[simp] theorem abandonMb_storeAnswers (f : List Byte) (e : MbError) : (s.abandonMb f e).storeAnswers = s.storeAnswers := by unfold abandonMb; split <;> rfl
@[simp] theorem abandonMb_draws (f : List Byte) (e : MbError) : (s.abandonMb f e).draws = s.draws := by unfold abandonMb; split <;> rfl
@[simp] theorem abandonMb_result (f : List Byte) (e : MbError) : (s.abandonMb f e).result = s.result := by unfold abandonMb; split <;> rfl
@[simp] theorem abandonMb_inbox (f : List Byte) (e : MbError) : (s.abandonMb f e).inbox = s.inbox := by unfold abandonMb; split <;> rfl

/-! ## success -/

@[simp] theorem success_cfg : s.success.cfg = s.cfg := by unfold success; split <;> rfl
@[simp] theorem success_mbBuf : s.success.mbBuf = s.mbBuf := by unfold success; split <;> rfl
@[simp] theorem success_mbActualLen : s.success.mbActualLen = s.mbActualLen := by unfold success; split <;> rfl
@[simp] theorem success_spRx : s.success.spRx = s.spRx := by unfold success; split <;> rfl
@[simp] theorem success_spOvf : s.success.spOvf = s.spOvf := by unfold success; split <;> rfl
@[simp] theorem success_spActive : s.success.spActive = s.spActive := by unfold success; split <;> rfl
@[simp] theorem success_spReqFnc : s.success.spReqFnc = s.spReqFnc := by unfold success; split <;> rfl
@[simp] theorem success_spLast : s.success.spLast = s.spLast := by unfold success; split <;> rfl
@[simp] theorem success_txA : s.success.txA = s.txA := by unfold success; split <;> rfl
@[simp] theorem success_txB : s.success.txB = s.txB := by unfold success; split <;> rfl
@[simp] theorem success_events : s.success.events = s.events := by unfold success; split <;> rfl
@[simp] theorem success_templates : s.success.templates = s.templates := by unfold success; split <;> rfl
@[simp] theorem success_storeAnswers : s.success.storeAnswers = s.storeAnswers := by unfold success; split <;> rfl
@[simp] theorem success_draws : s.success.draws = s.draws := by unfold success; split <;> rfl
@[simp] theorem success_result : s.success.result = s.result := by unfold success; split <;> rfl
@[simp] theorem success_inbox : s.success.inbox = s.inbox := by unfold success; split <;> rfl

/-! ## drawn -/

@[simp] theorem drawn_cfg : s.drawn.cfg = s.cfg := by unfold drawn; split <;> rfl
@[simp] theorem drawn_bank : s.drawn.bank = s.bank := by unfold drawn; split <;> rfl
@[simp] theorem drawn_mbBuf : s.drawn.mbBuf = s.mbBuf := by unfold drawn; split <;> rfl
@[simp] theorem drawn_mbActualLen : s.drawn.mbActualLen = s.mbActualLen := by unfold drawn; split <;> rfl
@[simp] theorem drawn_spRx : s.drawn.spRx = s.spRx := by unfold drawn; split <;> rfl
@[simp] theorem drawn_spOvf : s.drawn.spOvf = s.spOvf := by unfold drawn; split <;> rfl
@[simp] theorem drawn_spActive : s.drawn.spActive = s.spActive := by unfold drawn; split <;> rfl
@[simp] theorem drawn_spReqFnc : s.drawn.spReqFnc = s.spReqFnc := by unfold drawn; split <;> rfl
@[simp] theorem drawn_spLast : s.drawn.spLast = s.spLast := by unfold drawn; split <;> rfl
@[simp] theorem drawn_txA : s.drawn.txA = s.txA := by unfold drawn; split <;> rfl
@[simp] theorem drawn_txB : s.drawn.txB = s.txB := by unfold drawn; split <;> rfl
@[simp] theorem drawn_events : s.drawn.events = s.events := by unfold drawn; split <;> rfl
@[simp] theorem drawn_templates : s.drawn.templates = s.templates := by unfold drawn; split <;> rfl
@[simp] theorem drawn_result : s.drawn.result = s.result := by unfold drawn; split <;> rfl
@[simp] theorem drawn_inbox : s.drawn.inbox = s.inbox := by unfold drawn; split <;> rfl

/-! ## resetBlock -/

@[simp] theorem resetBlock_cfg : (resetBlock s).cfg = s.cfg := by simp only [resetBlock]
@[simp] theorem resetBlock_bank : (resetBlock s).bank = bankAtReset s.cfg s.draws := rfl
@[simp] theorem resetBlock_mbBuf : (resetBlock s).mbBuf = [] := rfl
@[simp] theorem resetBlock_mbActualLen : (resetBlock s).mbActualLen = 0#16 := rfl
@[simp] theorem resetBlock_spRx : (resetBlock s).spRx = [] := rfl
@[simp] theorem resetBlock_spOvf : (resetBlock s).spOvf = false := rfl
@[simp] theorem resetBlock_spActive : (resetBlock s).spActive = none := rfl
@[simp] theorem resetBlock_spReqFnc : (resetBlock s).spReqFnc = none := rfl
@[simp] theorem resetBlock_spLast : (resetBlock s).spLast = none := rfl
@[simp] theorem resetBlock_txA : (resetBlock s).txA = s.txA := by simp only [resetBlock]
@[simp] theorem resetBlock_txB : (resetBlock s).txB = s.txB := by simp only [resetBlock]
@[simp] theorem resetBlock_events : (resetBlock s).events = s.events := by simp only [resetBlock]
@[simp] theorem resetBlock_templates : (resetBlock s).templates = s.templates := by simp only [resetBlock]
@[simp] theorem resetBlock_storeAnswers : (resetBlock s).storeAnswers = s.storeAnswers := by simp only [resetBlock]
@[simp] theorem resetBlock_draws : (resetBlock s).draws = s.draws + 1 := by simp only [resetBlock]
@[simp] theorem resetBlock_result : (resetBlock s).result = s.result := by simp only [resetBlock]
@[simp] theorem resetBlock_inbox : (resetBlock s).inbox = s.inbox := by simp only [resetBlock]

/-! ## Registers through the updates that leave the bank alone -/

@[simp] theorem emitA_reg (f : List Byte) (a : Nat) : (s.emitA f).reg a = s.reg a := rfl
@[simp] theorem emitB_reg (f : List Byte) (a : Nat) : (s.emitB f).reg a = s.reg a := rfl
@[simp] theorem record_reg (e : Event) (a : Nat) : (s.record e).reg a = s.reg a := rfl
@[simp] theorem returns_reg (v : Value) (a : Nat) : (s.returns v).reg a = s.reg a := rfl
@[simp] theorem abandonMb_reg (f : List Byte) (e : MbError) (a : Nat) : (s.abandonMb f e).reg a = s.reg a := by
  simp [reg]
@[simp] theorem drawn_reg (a : Nat) : s.drawn.reg a = s.reg a := by simp [reg]

end Sys2Proof.Machine.State
end

