-- ==== Sys2Proof/Laws/Bank.lean ====
section
/-! SUPPORT. Read after write on the Register Bank. -/

namespace Sys2Proof.Machine

@[simp] theorem bankRead_bankWrite_self (b : Bank) (a : Nat) (v : Word) (h : a < 224) :
    bankRead (bankWrite b a v) a = v := by
  simp [bankRead, bankWrite, h]

@[simp] theorem bankRead_bankWrite_ne (b : Bank) (a c : Nat) (v : Word) (h : c ≠ a) :
    bankRead (bankWrite b a v) c = bankRead b c := by
  simp [bankRead, bankWrite, h.symm]

theorem bankRead_bankWrite (b : Bank) (a c : Nat) (v : Word) (h : a < 224) :
    bankRead (bankWrite b a v) c = if c = a then v else bankRead b c := by
  split
  · subst_vars; simp [h]
  · simp [*]

/-- A bulk write is read back inside its window, and nothing else changes. -/
theorem bankRead_memWrite (ws : List Word) (b : Bank) (a c : Nat) (h : a + ws.length ≤ 224) :
    bankRead (memWrite b a ws) c =
      if a ≤ c ∧ c < a + ws.length then ws.getD (c - a) 0#16 else bankRead b c := by
  induction ws generalizing b a with
  | nil => simp [memWrite, show ¬ (a ≤ c ∧ c < a) by omega]
  | cons w ws ih =>
    simp only [List.length_cons] at h
    rw [memWrite, ih _ _ (by omega)]
    by_cases hc : c = a
    · subst hc
      simp [show c < 224 by omega]
    · rw [bankRead_bankWrite_ne _ _ _ _ hc]
      by_cases hin : a + 1 ≤ c ∧ c < a + 1 + ws.length
      · rw [if_pos hin, if_pos (by simp; omega)]
        obtain ⟨k, rfl⟩ : ∃ k, c = a + 1 + k := ⟨c - (a + 1), by omega⟩
        simp [show a + 1 + k - a = k + 1 by omega]
      · rw [if_neg hin, if_neg (by simp; omega)]

/-- A register outside the window of a bulk write keeps its value, wherever the window ends. -/
theorem bankRead_memWrite_out (ws : List Word) (b : Bank) (a c : Nat) (h : c < a ∨ a + ws.length ≤ c) :
    bankRead (memWrite b a ws) c = bankRead b c := by
  induction ws generalizing b a with
  | nil => rfl
  | cons w ws ih =>
    simp only [List.length_cons] at h
    rw [memWrite, ih _ _ (by omega), bankRead_bankWrite_ne _ _ _ _ (by omega)]

@[simp] theorem length_memRead (b : Bank) (a n : Nat) : (memRead b a n).length = n := by simp [memRead]

/-- Two banks that read alike at every register are the same bank. -/
theorem bank_ext (b c : Bank) (h : ∀ a < 224, bankRead b a = bankRead c a) : b = c := by
  apply Vector.ext
  intro i hi
  simpa [bankRead, hi] using h i hi

theorem bankAtReset_cmd (cfg : Params) (k : Nat) :
    bankRead (bankAtReset cfg k) cfg.cmdReg.val = Config.sentinel :=
  bankRead_bankWrite_self _ _ _ (by omega)

theorem bankAtReset_other (cfg : Params) (k a : Nat) (h : a < 224) (hne : a ≠ cfg.cmdReg.val) :
    bankRead (bankAtReset cfg k) a = Config.bankInit k a := by
  rw [bankAtReset, bankRead_bankWrite_ne _ _ _ _ hne]
  simp [bankRead, h]

namespace State

theorem reg_setReg (s : State) (a c : Nat) (v : Word) (h : a < 224) :
    (s.setReg a v).reg c = if c = a then v else s.reg c := bankRead_bankWrite _ _ _ _ h

theorem reg_setRegs (s : State) (a c : Nat) (ws : List Word) (h : a + ws.length ≤ 224) :
    (s.setRegs a ws).reg c =
      if a ≤ c ∧ c < a + ws.length then ws.getD (c - a) 0#16 else s.reg c := bankRead_memWrite _ _ _ _ h

theorem reg_setStatus (s : State) (c : Nat) (v : Word) :
    (s.setStatus v).reg c = if c = s.cfg.statusReg.val then v else s.reg c :=
  bankRead_bankWrite _ _ _ _ (by omega)

theorem reg_setCmd (s : State) (c : Nat) (v : Word) :
    (s.setCmd v).reg c = if c = s.cfg.cmdReg.val then v else s.reg c :=
  bankRead_bankWrite _ _ _ _ (by omega)

theorem reg_abandonSp (s : State) (c : Nat) (e : SpError) :
    (s.abandonSp e).reg c = if c = s.cfg.statusReg.val then spErrorStatus s.cfg e else s.reg c :=
  s.reg_setStatus c _

/-- SUCCESS changes no register but STATUS_REG. -/
theorem reg_success_ne (s : State) (c : Nat) (h : c ≠ s.cfg.statusReg.val) : s.success.reg c = s.reg c := by
  unfold success
  split
  · rw [reg_setStatus, if_neg h]
  · rfl

theorem success_none (s : State) (h : s.cfg.statusOnSuccess = none) : s.success = s := by
  simp [success, h]

end State

end Sys2Proof.Machine
end

