-- ==== Sys2Proof/Laws/Bytes.lean ====
section
/-! SUPPORT. Bytes, words and byte sequences. -/

namespace Sys2Proof.Machine

/-- A big-endian word bit by bit. -/
theorem getLsbD_be16 (a b : Byte) (i : Nat) :
    (be16 a b).getLsbD i = if i < 8 then b.getLsbD i else a.getLsbD (i - 8) :=
  BitVec.getLsbD_append

/-- The byte 1 of an exception response bit by bit. -/
theorem getLsbD_exceptionFc (fn : BitVec 7) (i : Nat) :
    (exceptionFc fn).getLsbD i = if i < 7 then fn.getLsbD i else (1#1).getLsbD (i - 7) :=
  BitVec.getLsbD_append

@[simp] theorem hi8_be16 (a b : Byte) : hi8 (be16 a b) = a := by
  apply BitVec.eq_of_getLsbD_eq
  intro i hi
  rw [hi8, BitVec.getLsbD_extractLsb', getLsbD_be16]
  simp [hi]

@[simp] theorem lo8_be16 (a b : Byte) : lo8 (be16 a b) = b := by
  apply BitVec.eq_of_getLsbD_eq
  intro i hi
  rw [lo8, BitVec.getLsbD_extractLsb', getLsbD_be16]
  simp [hi]

@[simp] theorem be16_hi8_lo8 (w : Word) : be16 (hi8 w) (lo8 w) = w := by
  apply BitVec.eq_of_getLsbD_eq
  intro i hi
  rw [getLsbD_be16, hi8, lo8, BitVec.getLsbD_extractLsb', BitVec.getLsbD_extractLsb']
  by_cases h : i < 8
  · simp [h]
  · simp [h, show i - 8 < 8 by omega, show 8 + (i - 8) = i by omega]

@[simp] theorem cmdMode_be16 (a b : Byte) : cmdMode (be16 a b) = a := hi8_be16 a b

@[simp] theorem cmdTid_be16 (a b : Byte) : cmdTid (be16 a b) = b := lo8_be16 a b

/-- A big-endian word is 256 times its high byte plus its low byte (00_scope.md R13). -/
theorem be16_toNat (a b : Byte) : (be16 a b).toNat = a.toNat * 256 + b.toNat := by
  rw [be16, BitVec.toNat_append, ← Nat.shiftLeft_add_eq_or_of_lt b.isLt, Nat.shiftLeft_eq]

theorem be16_inj (a b c d : Byte) : be16 a b = be16 c d ↔ a = c ∧ b = d := by
  constructor
  · intro h
    exact ⟨by simpa using congrArg hi8 h, by simpa using congrArg lo8 h⟩
  · rintro ⟨rfl, rfl⟩; rfl

@[simp] theorem length_wordBytes (w : Word) : (wordBytes w).length = 2 := rfl

@[simp] theorem length_wordsBytes (ws : List Word) : (wordsBytes ws).length = 2 * ws.length := by
  induction ws with
  | nil => rfl
  | cons w ws ih => simp_all [wordsBytes]; omega

/-- Words written out big-endian are packed back into the same words. -/
@[simp] theorem dataWords_wordsBytes (ws : List Word) : dataWords (wordsBytes ws) = ws := by
  induction ws with
  | nil => rfl
  | cons w ws ih => simpa [dataWords, wordsBytes, wordBytes, pack2] using ih

/-- PACK2 makes ceil(m / 2) words of m bytes (42_sp_parser.md R220). -/
@[simp] theorem length_pack2 (odd : OddPlacement) (bs : List Byte) : (pack2 odd bs).length = halfUp bs.length := by
  fun_induction pack2 odd bs with
  | case1 => rfl
  | case2 => simp [halfUp]
  | case3 a b rest ih => simp [ih, halfUp]; omega

@[simp] theorem length_dataWords (bs : List Byte) : (dataWords bs).length = halfUp bs.length :=
  length_pack2 .low bs

@[simp] theorem markerOf_markerByte (m : Marker) : markerOf (markerByte m) = some m := by cases m <;> rfl

theorem markerByte_of_markerOf {b : Byte} {m : Marker} (h : markerOf b = some m) : markerByte m = b := by
  unfold markerOf at h
  split at h
  · cases h; simp_all [markerByte]
  · split at h
    · cases h; simp_all [markerByte]
    · split at h
      · cases h; simp_all [markerByte]
      · split at h
        · cases h; simp_all [markerByte]
        · cases h

/-- DLE is not a marker (40_codec.md R156). -/
@[simp] theorem markerOf_dle : markerOf Config.dle = none := rfl

@[simp] theorem excOf_excByte (c : MbExc) : excOf (excByte c) = some c := by cases c <;> rfl

@[simp] theorem fcLow_exceptionFc (fn : BitVec 7) : fcLow (exceptionFc fn) = fn := by
  apply BitVec.eq_of_getLsbD_eq
  intro i hi
  rw [fcLow, BitVec.getLsbD_extractLsb', getLsbD_exceptionFc]
  simp [hi]

/-- Byte 1 of an exception response is the request's function code with bit 7 set (30_encoding.md R108). -/
theorem exceptionFc_fcLow (fc : Byte) : exceptionFc (fcLow fc) = fc ||| 0x80#8 := by
  revert fc; decide

@[simp] theorem exceptionFc_bit7 (fn : BitVec 7) : (exceptionFc fn).getLsbD 7 = true := by
  rw [getLsbD_exceptionFc]; rfl

theorem slice_append_mid (pre mid post : List Byte) :
    slice (pre ++ mid ++ post) pre.length (pre.length + mid.length) = mid := by
  simp [slice, List.take_append]

/-! ## Link A's framer (43_modbus.md R251, R252) -/

theorem length_framerByte_le {max : Nat} {buf : List Byte} (b : Byte) (h : buf.length ≤ max) :
    (framerByte max buf b).length ≤ max := by
  unfold framerByte
  split
  · simp
  · rw [List.length_append, List.length_singleton]; omega

theorem foldl_framerByte_of_le (max : Nat) (f buf : List Byte) (h : buf.length + f.length ≤ max) :
    f.foldl (framerByte max) buf = buf ++ f := by
  induction f generalizing buf with
  | nil => simp
  | cons b f ih =>
    rw [List.length_cons] at h
    rw [List.foldl_cons, framerByte, if_neg (by omega), ih _ (by simp; omega)]
    simp

/-- A frame that fits is accumulated whole. -/
theorem framed_of_le (max : Nat) (f : List Byte) (h : f.length ≤ max) : framed max f = f :=
  foldl_framerByte_of_le max f [] (by simpa using h)

theorem foldl_framerByte_overflow (max : Nat) (f buf : List Byte) (hb : buf.length ≤ max)
    (h : max < buf.length + f.length) :
    f.foldl (framerByte max) buf = (f.drop (max + 1 - buf.length)).foldl (framerByte max) [] := by
  induction f generalizing buf with
  | nil => simp at h; omega
  | cons b f ih =>
    rw [List.length_cons] at h
    rw [List.foldl_cons]
    by_cases hm : buf.length = max
    · rw [framerByte, if_pos hm, hm, Nat.add_sub_cancel_left]; rfl
    · rw [framerByte, if_neg hm, ih _ (by simp; omega) (by simp; omega), List.length_append, List.length_singleton]
      congr 1
      rw [show max + 1 - buf.length = (max + 1 - (buf.length + 1)) + 1 by omega, List.drop_succ_cons]

/-- Of a longer frame the byte that overflows and those before it are lost (70_reset_and_hazards.md R462). -/
theorem framed_overflow (max : Nat) (f : List Byte) (h : max < f.length) :
    framed max f = framed max (f.drop (max + 1)) :=
  foldl_framerByte_overflow max f [] (by simp) (by simpa using h)

end Sys2Proof.Machine
end

