-- ==== Sys2Proof/Laws/Codec.lean ====
section
/-! SUPPORT. The codec by its tokens: what the stuffer emits, the destuffer reads token for token. -/

namespace Sys2Proof.Machine

@[simp] theorem tokenByte_stuffToken (b : Byte) : tokenByte (stuffToken b) = b := by
  unfold stuffToken
  split
  · exact markerByte_of_markerOf (by assumption)
  · rfl

@[simp] theorem tokenByte_innerToken (b : Byte) : tokenByte (innerToken b) = b := by
  unfold innerToken
  split
  · rfl
  · simp

/-- Two tokens in a row that are read back as they were written: not a literal DLE before a literal marker byte
(30_encoding.md R115). -/
def ReadsBack (t u : Token) : Prop := t = .literal Config.dle → ∀ b, u = .literal b → markerOf b = none

@[simp] theorem tokens_esc_append (m : Marker) (ws : List Byte) :
    tokens (Config.dle :: markerByte m :: ws) = .esc m :: tokens ws := by
  rw [tokens]; simp

/-- A literal ends no token early: a DLE is read as a literal unless a marker byte follows it. -/
theorem tokens_literal_append (b : Byte) (ws : List Byte)
    (h : b = Config.dle → ∀ c ∈ ws.head?, markerOf c = none) : tokens (b :: ws) = .literal b :: tokens ws := by
  cases ws with
  | nil => rfl
  | cons c rest =>
    rw [tokens]
    split
    · have := h (by assumption) c (by simp)
      rw [this]
    · rfl

/-- A token's wire bytes begin with a marker byte only if it is that literal. -/
theorem head_tokenWire_append (t : Token) (ws : List Byte) :
    ∀ c ∈ (tokenWire t ++ ws).head?, c = Config.dle ∨ t = .literal c := by
  cases t <;> simp [tokenWire]

/-- A chain of tokens that read back is read token for token, whatever follows, as long as the last one reads back
before what follows (40_codec.md R156). -/
theorem tokens_flatMap_append (ts : List Token) (ws : List Byte) (hc : ts.IsChain ReadsBack)
    (hl : ts.getLast? = some (.literal Config.dle) → ∀ c ∈ ws.head?, markerOf c = none) :
    tokens (ts.flatMap tokenWire ++ ws) = ts ++ tokens ws := by
  induction ts with
  | nil => simp
  | cons t ts ih =>
    rw [List.flatMap_cons, List.append_assoc, List.cons_append]
    have ih' : tokens (ts.flatMap tokenWire ++ ws) = ts ++ tokens ws := by
      cases ts with
      | nil => simp
      | cons u us => exact ih hc.tail (by simpa using hl)
    rw [← ih']
    cases t with
    | esc m => simp [tokenWire]
    | literal b =>
      simp only [tokenWire, List.singleton_append]
      refine tokens_literal_append _ _ fun hb c hcm => ?_
      subst hb
      cases ts with
      | nil => exact hl (by simp) c (by simpa using hcm)
      | cons u us =>
        have hu : ReadsBack (.literal Config.dle) u := (List.isChain_cons_cons.mp hc).1
        rw [List.flatMap_cons, List.append_assoc] at hcm
        obtain rfl | rfl := head_tokenWire_append u _ c hcm
        · rfl
        · exact hu rfl c rfl

theorem readsBack_stuffToken (t : Token) (b : Byte) : ReadsBack t (stuffToken b) := by
  intro _ c hc
  unfold stuffToken at hc
  split at hc
  · cases hc
  · cases hc; assumption

/-- What STUFF emits reads back, whatever the bytes (40_codec.md R156). -/
theorem isChain_stuffToken (x : List Byte) : (x.map stuffToken).IsChain ReadsBack := by
  induction x with
  | nil => simp
  | cons b x ih =>
    cases x with
    | nil => simp
    | cons c x => exact List.isChain_cons_cons.mpr ⟨readsBack_stuffToken _ _, ih⟩

/-- The destuffer reads a stuffed stream token for token (40_codec.md R156). -/
theorem tokens_stuffBytes (x : List Byte) : tokens (stuffBytes x) = x.map stuffToken := by
  have h : stuffBytes x = (x.map stuffToken).flatMap tokenWire ++ [] := by simp [stuffBytes, List.flatMap_map]
  rw [h, tokens_flatMap_append _ _ (isChain_stuffToken x) (by simp)]
  simp [tokens]

/-- The pass by its tokens: the compacted bytes are the tokens' logical bytes (40_codec.md R153). -/
theorem foldl_destuffToken_out (ts : List Token) (p : DestuffPass) :
    (ts.foldl destuffToken p).out = p.out ++ ts.map tokenByte := by
  induction ts generalizing p with
  | nil => simp
  | cons t ts ih => simp [ih, destuffToken]

@[simp] theorem destuff_out (buf : List Byte) : (destuff buf).out = (tokens buf).map tokenByte := by
  simp [destuff, destuffPass, foldl_destuffToken_out]

/-- A token with no escaped STX or ETX leaves the recorded positions alone. -/
theorem foldl_destuffToken_plain (ts : List Token) (p : DestuffPass)
    (h : ∀ t ∈ ts, t ≠ .esc .stx ∧ t ≠ .esc .etx) :
    (ts.foldl destuffToken p).stxs = p.stxs ∧ (ts.foldl destuffToken p).etxs = p.etxs := by
  induction ts generalizing p with
  | nil => simp
  | cons t ts ih =>
    have ht := h t (by simp)
    have := ih (destuffToken p t) (fun u hu => h u (by simp [hu]))
    simpa [destuffToken, ht.1, ht.2] using this

/-- The compacted positions of the tokens equal to `t`, the first token standing at `k`. -/
def positions (t : Token) (k : Nat) : List Token → List Nat
  | [] => []
  | u :: us => if u = t then k :: positions t (k + 1) us else positions t (k + 1) us

/-- The pass records the positions of the escaped STX and ETX tokens (40_codec.md R153). -/
theorem foldl_destuffToken_marks (ts : List Token) (p : DestuffPass) :
    (ts.foldl destuffToken p).stxs = p.stxs ++ positions (.esc .stx) p.out.length ts ∧
      (ts.foldl destuffToken p).etxs = p.etxs ++ positions (.esc .etx) p.out.length ts := by
  induction ts generalizing p with
  | nil => simp [positions]
  | cons t ts ih =>
    obtain ⟨h1, h2⟩ := ih (destuffToken p t)
    rw [List.foldl_cons, h1, h2]
    have hl : (destuffToken p t).out.length = p.out.length + 1 := by simp [destuffToken]
    rw [hl, positions, positions]
    constructor
    · simp only [destuffToken]
      split <;> simp
    · simp only [destuffToken]
      split <;> simp

theorem positions_eq_nil (t : Token) (k : Nat) (ts : List Token) : positions t k ts = [] ↔ ts.count t = 0 := by
  induction ts generalizing k with
  | nil => simp [positions]
  | cons u us ih =>
    rw [positions, List.count_cons]
    split
    · subst_vars; simp
    · rw [ih]; simp [*]

/-- A token stands at one position exactly where it occurs once, and then that position is its first. -/
theorem positions_eq_singleton (t : Token) (k n : Nat) (ts : List Token) :
    positions t k ts = [n] ↔ ts.count t = 1 ∧ n = k + ts.idxOf t := by
  induction ts generalizing k with
  | nil => simp [positions]
  | cons u us ih =>
    rw [positions, List.count_cons, List.idxOf_cons]
    split
    · subst_vars
      rw [List.cons.injEq, positions_eq_nil]
      simp [and_comm, eq_comm]
    · rename_i h
      rw [ih]
      simp only [show (u == t) = false by simpa using h, cond_false, Bool.false_eq_true, if_false, Nat.add_zero]
      constructor <;> rintro ⟨h1, h2⟩ <;> exact ⟨h1, by omega⟩

/-- The verdict of DESTUFF is OK exactly where one escaped STX stands before one escaped ETX (40_codec.md R154). -/
theorem destuff_marks (buf : List Byte) (stx etx : Nat) :
    (destuff buf).marks = some (stx, etx) ↔
      (tokens buf).count (.esc .stx) = 1 ∧ (tokens buf).count (.esc .etx) = 1 ∧
        stx = (tokens buf).idxOf (.esc .stx) ∧ etx = (tokens buf).idxOf (.esc .etx) ∧ stx < etx := by
  have h := foldl_destuffToken_marks (tokens buf) ⟨[], [], []⟩
  have hs := positions_eq_singleton (.esc .stx) 0 stx (tokens buf)
  have he := positions_eq_singleton (.esc .etx) 0 etx (tokens buf)
  simp only [List.nil_append, List.length_nil] at h
  rw [Nat.zero_add] at hs he
  have hm : (destuff buf).marks = some (stx, etx) ↔
      (destuffPass buf).stxs = [stx] ∧ (destuffPass buf).etxs = [etx] ∧ stx < etx := by
    simp only [destuff, markerCheck]
    split
    · rename_i a b ha hb
      rw [ha, hb]
      split <;> simp <;> omega
    · rename_i hne
      constructor
      · intro hc; cases hc
      · rintro ⟨h1, h2, -⟩; exact absurd h2 (hne stx etx h1)
  rw [hm, destuffPass, h.1, h.2, hs, he]
  tauto

end Sys2Proof.Machine
end

