-- ==== Sys2Proof/Laws/Config.lean ====
section
/-! SUPPORT. The parameters meet the spec's premises, and padDiscount its law. -/

namespace Sys2Proof

theorem legalParams_ok : Config.legalParams.Ok := by decide

/-- Whatever the free draw is, the machine's parameters are legal (00_scope.md R11). -/
theorem params_ok : Config.params.Ok := by
  unfold Config.params
  split
  · assumption
  · exact legalParams_ok

/-- The law of padDiscount (43_modbus.md R274). -/
theorem padDiscount_le (d : List Byte) : Config.padDiscount d ≤ d.length := Nat.min_le_right _ _

end Sys2Proof
end

