-- ==== Sys2Proof/Laws/Crc.lean ====
section
/-! SUPPORT. The CRC engines over concatenated bytes, and the link-A frame check. -/

namespace Sys2Proof.Machine

theorem crcMb_append (x y : List Byte) : crcMb (x ++ y) = y.foldl crcMbByte (crcMb x) := by simp [crcMb]

theorem crcSp_append (x y : List Byte) : crcSp (x ++ y) = y.foldl crcSpByte (crcSp x) := by simp [crcSp]

@[simp] theorem length_crcMbField (x : List Byte) : (crcMbField x).length = 2 := rfl

@[simp] theorem length_crcSpField (x : List Byte) : (crcSpField x).length = 2 := rfl

@[simp] theorem length_withCrcMb (x : List Byte) : (withCrcMb x).length = x.length + 2 := by simp [withCrcMb]

/-- A frame built with its CRC passes the check (41_crc.md R171). -/
@[simp] theorem crcMbPasses_withCrcMb (x : List Byte) : crcMbPasses (withCrcMb x) = true := by
  have h1 : byteAt (withCrcMb x) (x.length + 1) = hi8 (crcMb x) := by
    simp [byteAt, withCrcMb, crcMbField]
  have h2 : byteAt (withCrcMb x) x.length = lo8 (crcMb x) := by
    simp [byteAt, withCrcMb, crcMbField]
  have h3 : (withCrcMb x).take x.length = x := by simp [withCrcMb]
  rw [crcMbPasses, length_withCrcMb, show x.length + 2 - 2 = x.length by omega,
    show x.length + 2 - 1 = x.length + 1 by omega, h1, h2, h3]
  simp

theorem byteAt_withCrcMb (x : List Byte) (i : Nat) (h : i < x.length) : byteAt (withCrcMb x) i = byteAt x i := by
  simp [byteAt, withCrcMb, List.getElem?_append, h]

theorem fieldAt_withCrcMb (x : List Byte) (i : Nat) (h : i + 1 < x.length) :
    fieldAt (withCrcMb x) i = fieldAt x i := by
  simp [fieldAt, byteAt_withCrcMb, h, show i < x.length by omega]

/-- What stands between the header and the CRC of a request frame is its data. -/
theorem slice_requestFrame (addr fc : Byte) (data : List Byte) :
    slice (requestFrame addr fc data) 2 ((requestFrame addr fc data).length - 2) = data := by
  simp [requestFrame, withCrcMb, slice]

@[simp] theorem length_requestFrame (addr fc : Byte) (data : List Byte) :
    (requestFrame addr fc data).length = data.length + 4 := by simp [requestFrame]

@[simp] theorem byteAt_requestFrame_zero (addr fc : Byte) (data : List Byte) :
    byteAt (requestFrame addr fc data) 0 = addr := rfl

@[simp] theorem byteAt_requestFrame_one (addr fc : Byte) (data : List Byte) :
    byteAt (requestFrame addr fc data) 1 = fc := rfl

@[simp] theorem crcMbPasses_requestFrame (addr fc : Byte) (data : List Byte) :
    crcMbPasses (requestFrame addr fc data) = true := crcMbPasses_withCrcMb _

/-- The byte `i` places after the function code, where the data reaches it. -/
theorem byteAt_requestFrame_data (addr fc : Byte) (data : List Byte) (i : Nat) (h : i < data.length) :
    byteAt (requestFrame addr fc data) (i + 2) = byteAt data i := by
  rw [requestFrame, byteAt_withCrcMb _ _ (by simp; omega)]
  simp [byteAt]

end Sys2Proof.Machine
end

