-- ==== Sys2Proof/Laws/SpRouter.lean ====
section
/-! SUPPORT. The SP packet parser and command router: what each of its operations can do, said once. -/

namespace Sys2Proof.Machine

/-- The words of the packing loop's fields: for each its length and its bytes (30_encoding.md R122). -/
def fieldWords (odd : OddPlacement) (recs : List (List Byte)) : List Word :=
  recs.flatMap fun f => BitVec.ofNat 16 f.length :: pack2 odd f

theorem fieldWords_cons (odd : OddPlacement) (f : List Byte) (fs : List (List Byte)) :
    fieldWords odd (f :: fs) = BitVec.ofNat 16 f.length :: (pack2 odd f ++ fieldWords odd fs) := by
  simp [fieldWords]

theorem memWrite_append (b : Bank) (a : Nat) (xs ys : List Word) :
    memWrite (memWrite b a xs) (a + xs.length) ys = memWrite b a (xs ++ ys) := by
  induction xs generalizing b a with
  | nil => rfl
  | cons x xs ih =>
    rw [List.cons_append, memWrite, memWrite, ← ih, List.length_cons, show a + (xs.length + 1) = a + 1 + xs.length by omega]

/-- The packing loop writes the words of as many whole fields as fit below FIELD_END, and no others
(42_sp_parser.md R217). -/
theorem packLoop_spec (odd : OddPlacement) (recs : List (List Byte)) (p w : Nat) (b : Bank) (hp : p ≤ 0x80) :
    ∃ n ≤ recs.length,
      packLoop odd recs p w b = (memWrite b p (fieldWords odd (recs.take n)), w + n) ∧
        p + (fieldWords odd (recs.take n)).length ≤ 0x80 ∧
        (n < recs.length → 0x80 < p + (fieldWords odd (recs.take (n + 1))).length) := by
  induction recs generalizing p w b with
  | nil => exact ⟨0, by simp, rfl, by simpa [fieldWords] using hp, by simp⟩
  | cons f fs ih =>
    rw [packLoop]
    split
    · rename_i h
      refine ⟨0, by simp, rfl, by simpa [fieldWords] using hp, fun _ => ?_⟩
      simp only [Config.fieldEnd] at h
      simp [fieldWords]
      omega
    · rename_i h
      simp only [Config.fieldEnd] at h
      obtain ⟨n, hn, heq, hle, hgt⟩ := ih (p + (1 + halfUp f.length)) (w + 1)
        (memWrite (bankWrite b p (BitVec.ofNat 16 f.length)) (p + 1) (pack2 odd f)) (by omega)
      refine ⟨n + 1, by simp; omega, ?_, ?_, ?_⟩
      · rw [heq, List.take_succ_cons, fieldWords_cons, memWrite, ← memWrite_append, length_pack2,
          show p + 1 + halfUp f.length = p + (1 + halfUp f.length) by omega, show w + 1 + n = w + (n + 1) by omega]
      · rw [List.take_succ_cons, fieldWords_cons]
        simp only [List.length_cons, List.length_append, length_pack2]
        omega
      · intro hlt
        rw [List.take_succ_cons, fieldWords_cons]
        simp only [List.length_cons, List.length_append, length_pack2] at hlt ⊢
        have := hgt (by omega)
        omega

theorem fieldImage_eq (odd : OddPlacement) (recs : List (List Byte)) :
    fieldImage odd recs = BitVec.ofNat 16 recs.length :: fieldWords odd recs := rfl

theorem bankWrite_memWrite_comm (ws : List Word) (b : Bank) (a c : Nat) (v : Word) (h : c < a) (hc : c < 224) :
    bankWrite (memWrite b a ws) c v = memWrite (bankWrite b c v) a ws := by
  induction ws generalizing b a with
  | nil => rfl
  | cons w ws ih =>
    rw [memWrite, memWrite, ih _ _ (by omega)]
    congr 1
    apply bank_ext
    intro d hd
    rw [bankRead_bankWrite _ _ _ _ hc]
    by_cases h1 : d = a
    · subst h1
      simp [show d ≠ c by omega, hd]
    · by_cases h2 : d = c
      · subst h2; simp [show d ≠ a by omega, hc]
      · simp [h1, h2]

/-- PACK_FIELDS writes the field image of as many whole records as fit (42_sp_parser.md R217). -/
theorem packFields_spec (odd : OddPlacement) (recs : List (List Byte)) (b : Bank) :
    ∃ n ≤ recs.length,
      packFields odd recs b = memWrite b 0x20 (fieldImage odd (recs.take n)) ∧
        (fieldImage odd (recs.take n)).length ≤ 96 ∧
        (n < recs.length → 96 < (fieldImage odd (recs.take (n + 1))).length) := by
  obtain ⟨n, hn, heq, hle, hgt⟩ := packLoop_spec odd recs 0x21 0 b (by omega)
  refine ⟨n, hn, ?_, ?_, ?_⟩
  · rw [packFields, show Config.fieldBase + 1 = 0x21 from rfl, heq]
    show bankWrite (memWrite b 0x21 _) 0x20 (BitVec.ofNat 16 (0 + n)) = _
    rw [bankWrite_memWrite_comm _ _ _ _ _ (by omega) (by omega), fieldImage_eq, memWrite]
    simp [Nat.min_eq_left hn]
  · rw [fieldImage_eq, List.length_cons]; omega
  · intro h
    rw [fieldImage_eq, List.length_cons]
    have := hgt h
    omega

/-- SUCCESS changes at most STATUS_REG (42_sp_parser.md R221). -/
theorem success_eq (s : State) :
    s.success = { s with bank := s.success.bank } ∧
      ∀ a < 224, s.success.reg a = if a = s.cfg.statusReg.val then s.successStatus else s.reg a := by
  cases h : s.cfg.statusOnSuccess with
  | none =>
    have hs : s.success = s := State.success_none s h
    refine ⟨by rw [hs], fun a _ => ?_⟩
    rw [hs]
    split
    · subst_vars; simp [State.successStatus, h]
    · rfl
  | some v =>
    have hs : s.success = s.setStatus v := by simp [State.success, h]
    refine ⟨by rw [hs]; rfl, fun a _ => ?_⟩
    rw [hs, State.reg_setStatus]
    simp [State.successStatus, h]

/-- The SP engine's reach on receive: READW, a status code, records appended, the draw of an unstated id. -/
structure SpReach (s t : State) : Prop where
  rest : t = { s with bank := t.bank, events := t.events, draws := t.draws }
  made : s.events <+: t.events
  regs : ∀ a < 224, t.reg a ≠ s.reg a → inReadw a ∨ a = s.cfg.statusReg.val
  status : s.cfg.statusOnSuccess = none → t.reg s.cfg.statusReg.val ≠ s.reg s.cfg.statusReg.val →
    t.reg s.cfg.statusReg.val ∈ [s.cfg.errShort, s.cfg.errCrc, s.cfg.errAlloc, s.cfg.errMarkers]

theorem SpReach.refl (s : State) : SpReach s s :=
  ⟨rfl, List.prefix_rfl, fun _ _ h => absurd rfl h, fun _ h => absurd rfl h⟩

theorem spErrorStatus_mem (cfg : Params) (e : SpError) :
    spErrorStatus cfg e ∈ [cfg.errShort, cfg.errCrc, cfg.errAlloc, cfg.errMarkers] := by
  cases e <;> simp [spErrorStatus]

/-- Abandoning a frame leaves a status code and changes nothing else (60_exceptions.md R403). -/
theorem abandonSp_reach (s : State) (e : SpError) : SpReach s (s.abandonSp e) := by
  refine ⟨rfl, List.prefix_rfl, fun a _ h => ?_, fun _ _ => ?_⟩
  · rw [State.reg_abandonSp] at h
    split at h
    · exact .inr (by assumption)
    · exact absurd rfl h
  · rw [State.reg_abandonSp, if_pos rfl]
    exact spErrorStatus_mem _ _

/-- Writing READW and then SUCCESS (42_sp_parser.md R212, R213). -/
theorem readw_success_reach (s u : State) (ws : List Word) (hw : ws.length ≤ 96)
    (hu : u = { s with bank := u.bank, events := u.events, draws := u.draws }) (he : s.events <+: u.events)
    (hb : u.bank = memWrite s.bank 0x20 ws) : SpReach s u.success := by
  have hcfg : u.cfg = s.cfg := by rw [hu]
  obtain ⟨hrest, hregs⟩ := success_eq u
  have hout : ∀ a, ¬ inReadw a → u.reg a = s.reg a := fun a ha => by
    show bankRead u.bank a = bankRead s.bank a
    rw [hb]
    exact bankRead_memWrite_out _ _ _ _ (by simp only [inReadw] at ha; omega)
  refine ⟨by rw [hrest, hu], by rw [hrest]; exact he, fun a ha hne => ?_, fun hnone hne => absurd ?_ hne⟩
  · by_contra hcon
    rw [not_or] at hcon
    rw [hregs a ha, hcfg, if_neg hcon.2, hout a hcon.1] at hne
    exact hne rfl
  · rw [State.success_none u (by rw [hcfg]; exact hnone)]
    exact hout _ (by simp only [inReadw]; omega)

/-- The registers after writing READW and then SUCCESS. -/
theorem readw_success_reg (s u : State) (ws : List Word) (hw : ws.length ≤ 96) (hcfg : u.cfg = s.cfg)
    (hb : u.bank = memWrite s.bank 0x20 ws) (a : Nat) (ha : a < 224) :
    u.success.reg a =
      if 0x20 ≤ a ∧ a < 0x20 + ws.length then ws.getD (a - 0x20) 0#16
      else if a = s.cfg.statusReg.val then s.successStatus
      else s.reg a := by
  have hreg : ∀ c, u.reg c = bankRead (memWrite s.bank 0x20 ws) c := fun c => by rw [← hb]; rfl
  have hs : u.successStatus = s.successStatus := by
    unfold State.successStatus
    rw [hcfg]
    split
    · rfl
    · rw [hreg, bankRead_memWrite_out _ _ _ _ (by omega)]
      rfl
  rw [(success_eq u).2 a ha, hcfg, hs, hreg, bankRead_memWrite _ _ _ _ (by omega)]
  by_cases he : a = s.cfg.statusReg.val
  · rw [if_pos he, if_neg (by omega), if_pos he]
  · rw [if_neg he, if_neg he]
    rfl

theorem length_rawWords (odd : OddPlacement) (payload : List Byte) :
    (pack2 odd (payload.take (2 * Config.rawRegs))).length = (min payload.length 192 + 1) / 2 := by
  simp [Config.rawRegs, halfUp, Nat.min_comm]

/-- Raw mode (42_sp_parser.md R213). -/
theorem rawMode_reach (payload : List Byte) (s : State) : SpReach s (rawMode payload s) :=
  readw_success_reach s _ _ (by rw [length_rawWords]; omega) rfl List.prefix_rfl rfl

/-- Field mode (42_sp_parser.md R212). -/
theorem fieldMode_reach (payload : List Byte) (s : State) : SpReach s (fieldMode payload s) := by
  obtain ⟨n, -, heq, hle, -⟩ := packFields_spec s.cfg.oddPlacement
    ((segment s.cfg.rs payload).take Config.maxFields) s.bank
  exact readw_success_reach s _ _ hle rfl (List.prefix_append _ _) heq

/-- The routes of DISPATCH (30_encoding.md R117). -/
theorem dispatch_cases (fnc : Byte) (payload : List Byte) (s : State) :
    (keyMatched s fnc = true ∧ dispatch fnc payload s = fieldMode payload s) ∨
      (keyMatched s fnc = false ∧ rawFallback s = true ∧ dispatch fnc payload s = rawMode payload s) ∨
      (keyMatched s fnc = false ∧ rawFallback s = false ∧ dispatch fnc payload s = s) := by
  unfold dispatch
  cases hk : keyMatched s fnc <;> cases hr : rawFallback s <;> simp

theorem dispatch_reach (fnc : Byte) (payload : List Byte) (s : State) : SpReach s (dispatch fnc payload s) := by
  obtain ⟨-, h⟩ | ⟨-, -, h⟩ | ⟨-, -, h⟩ := dispatch_cases fnc payload s <;> rw [h]
  · exact fieldMode_reach payload s
  · exact rawMode_reach payload s
  · exact .refl s

theorem spFrameStep_reach (raw : List Byte) (ovf : Bool) (s : State) : SpReach s (spFrameStep raw ovf s) := by
  unfold spFrameStep
  split
  · exact abandonSp_reach _ _
  · exact dispatch_reach _ _ _

/-- The drain of a silence, whatever was received (42_sp_parser.md R200, R201). -/
theorem execSpSilence_eq (s : State) :
    execSpSilence s =
      .next (if s.spRx = [] ∧ s.spOvf = false then s.drained else spFrameStep s.spRx s.spOvf s.drained) := rfl

/-- An overflowed drain is abandoned before anything else is looked at (42_sp_parser.md R203). -/
theorem spReceive_overflow (raw : List Byte) : spReceive raw true = .error .overflow := rfl

theorem spReceive_parse (raw : List Byte) : spReceive raw false = parseSpFrame raw := rfl

/-- A missing CRC field comes before every other check of the compacted bytes (42_sp_parser.md R206). -/
theorem parseLogical_crcMissing (l : List Byte) (stx etx : Nat) (h : l.length < etx + 3) :
    parseLogical l stx etx = .error .crcMissing := by rw [parseLogical, if_pos h]

/-- Then the CRC (42_sp_parser.md R207). -/
theorem parseLogical_badCrc (l : List Byte) (stx etx : Nat) (h : etx + 3 ≤ l.length)
    (hc : crcSp (l.take (etx + 1)) ≠ be16 (byteAt l (etx + 1)) (byteAt l (etx + 2))) :
    parseLogical l stx etx = .error .badCrc := by rw [parseLogical, if_neg (by omega), if_pos hc]

/-- Then the header length, SOH, and STX position (42_sp_parser.md R208), and then the fields (R209, R210). -/
theorem parseLogical_header (l : List Byte) (stx etx : Nat) (h : etx + 3 ≤ l.length)
    (hc : crcSp (l.take (etx + 1)) = be16 (byteAt l (etx + 1)) (byteAt l (etx + 2))) :
    parseLogical l stx etx =
      if etx + 1 < 7 then .error .shortHeader
      else if byteAt l 0 ≠ 0x01#8 then .error .notSoh
      else if stx < 5 then .error .earlyStx
      else .ok ⟨byteAt l 1, byteAt l 2, byteAt l 3, byteAt l 4, slice l 5 stx, slice l (stx + 1) etx⟩ := by
  rw [parseLogical, if_neg (by omega), if_neg (fun hn => hn hc)]

/-- Leading sync bytes are stripped, however many (42_sp_parser.md R204). -/
theorem stripSync_replicate (j : Nat) (body : List Byte) (h : body.head? ≠ some Config.sync) :
    stripSync (List.replicate j Config.sync ++ body) = body := by
  induction j with
  | zero =>
    cases body with
    | nil => rfl
    | cons b bs => simpa [stripSync] using h
  | succ j ih => simpa [stripSync, List.replicate_succ] using ih

end Sys2Proof.Machine
end

