-- ==== Sys2Proof/Laws/Frames.lean ====
section
/-! SUPPORT. SP frames on the wire: what a receiver reads of a frame as it is sent (30_encoding.md R112, R113). -/

namespace Sys2Proof.Machine

theorem innerToken_ne (b : Byte) : innerToken b ≠ .esc .stx ∧ innerToken b ≠ .esc .etx := by
  revert b; decide

theorem innerToken_readsBack (t : Token) (b : Byte) (h : t = .literal Config.dle → b ≠ Config.stx ∧ b ≠ Config.etx) :
    ReadsBack t (innerToken b) := by
  intro ht c hc
  have hb := h ht
  rw [innerToken, if_neg (by tauto)] at hc
  exact readsBack_stuffToken t b ht c hc

theorem innerToken_eq_dle (b : Byte) : innerToken b = .literal Config.dle ↔ b = Config.dle := by
  revert b; decide

/-- A text that can be read back is sent as tokens that read back (70_reset_and_hazards.md R465). -/
theorem isChain_innerToken (x : List Byte) (h : textReadable x = true) : (x.map innerToken).IsChain ReadsBack := by
  induction x with
  | nil => simp
  | cons a x ih =>
    cases x with
    | nil => simp
    | cons b x =>
      simp only [textReadable, Bool.and_eq_true, decide_eq_true_eq, not_and, not_or] at h
      exact List.isChain_cons_cons.mpr
        ⟨innerToken_readsBack _ _ fun ht => h.1 ((innerToken_eq_dle a).mp ht), ih h.2⟩

theorem readsBack_esc (t : Token) (m : Marker) : ReadsBack t (.esc m) := fun _ _ h => nomatch h

theorem esc_readsBack (m : Marker) (t : Token) : ReadsBack (.esc m) t := fun h => nomatch h

theorem isChain_append_esc (ts : List Token) (m : Marker) (us : List Token) (ht : ts.IsChain ReadsBack)
    (hu : us.IsChain ReadsBack) : (ts ++ .esc m :: us).IsChain ReadsBack := by
  rw [List.isChain_append]
  refine ⟨ht, ?_, fun a _ b hb => ?_⟩
  · rw [List.isChain_cons]
    exact ⟨fun b _ => esc_readsBack m b, hu⟩
  · simp only [List.head?_cons, Option.mem_some_iff] at hb
    subst hb
    exact readsBack_esc a m

/-- The tokens of a frame, one list of its parts. -/
theorem frameTokens_eq (p : SpFields) : frameTokens p =
    .esc .soh :: (([p.dad, p.sad, p.isi, p.fnc] ++ p.ext).map innerToken ++
      .esc .stx :: (p.payload.map innerToken ++ .esc .etx :: [])) := by
  simp [frameTokens]

theorem isChain_frameTokens (p : SpFields) (hh : textReadable ([p.dad, p.sad, p.isi, p.fnc] ++ p.ext) = true)
    (hp : textReadable p.payload = true) : (frameTokens p).IsChain ReadsBack := by
  rw [frameTokens_eq, List.isChain_cons]
  exact ⟨fun b _ => esc_readsBack _ b, isChain_append_esc _ _ _ (isChain_innerToken _ hh)
    (isChain_append_esc _ _ _ (isChain_innerToken _ hp) (by simp))⟩

/-- The logical bytes of a frame's tokens are SOH..ETX (30_encoding.md R113). -/
theorem map_tokenByte_frameTokens (p : SpFields) : (frameTokens p).map tokenByte = logicalFrame p := by
  have hm : ∀ x : List Byte, (x.map innerToken).map tokenByte = x := fun x => by
    rw [List.map_map]
    exact (List.map_congr_left fun b _ => tokenByte_innerToken b).trans (List.map_id x)
  simp only [frameTokens, List.map_append, hm, logicalFrame]
  simp [tokenByte, markerByte]

/-- What is left of a frame on the wire, and of what follows it, once its sync bytes are stripped. -/
theorem stripSync_spWire (p : SpFields) (tail : List Byte) :
    stripSync (spWire p ++ tail) = (frameTokens p).flatMap tokenWire ++ (crcSpField (logicalFrame p) ++ tail) := by
  have h : spWire p ++ tail = List.replicate 2 Config.sync ++
      ((frameTokens p).flatMap tokenWire ++ (crcSpField (logicalFrame p) ++ tail)) := by
    simp only [spWire, List.append_assoc]; rfl
  rw [h, stripSync_replicate]
  simp [frameTokens, tokenWire, Config.dle, Config.sync]

/-- A frame is read token for token up to its CRC field, whatever follows (40_codec.md R156). -/
theorem tokens_spWire (p : SpFields) (hh : textReadable ([p.dad, p.sad, p.isi, p.fnc] ++ p.ext) = true)
    (hp : textReadable p.payload = true) (tail : List Byte) :
    tokens (stripSync (spWire p ++ tail)) = frameTokens p ++ tokens (crcSpField (logicalFrame p) ++ tail) := by
  rw [stripSync_spWire]
  refine tokens_flatMap_append _ _ (isChain_frameTokens p hh hp) fun h => ?_
  rw [frameTokens, List.getLast?_concat] at h
  cases h

/-- A CRC field that is no escape pair is read as two literals. -/
theorem tokens_crcSpField (l : List Byte) (h : crcSpReadable l = true) :
    tokens (crcSpField l) = [.literal (hi8 (crcSp l)), .literal (lo8 (crcSp l))] := by
  rw [crcSpField, tokens_literal_append _ _ ?_, tokens_literal_append _ _ ?_, tokens]
  · simp
  · intro hd c hc
    simp only [List.head?_cons, Option.mem_some_iff] at hc
    subst hc
    simpa [crcSpReadable, hd] using h

/-- A CRC field that is an escape pair is read as that pair (70_reset_and_hazards.md R466). -/
theorem tokens_crcSpField_esc (l : List Byte) (m : Marker) (hh : hi8 (crcSp l) = Config.dle)
    (hl : lo8 (crcSp l) = markerByte m) (tail : List Byte) : tokens (crcSpField l ++ tail) = .esc m :: tokens tail := by
  rw [crcSpField, hh, hl]
  exact tokens_esc_append m tail

theorem count_innerToken (x : List Byte) :
    (x.map innerToken).count (.esc .stx) = 0 ∧ (x.map innerToken).count (.esc .etx) = 0 := by
  constructor <;> rw [List.count_eq_zero] <;> intro h <;> obtain ⟨b, -, hb⟩ := List.mem_map.mp h
  · exact (innerToken_ne b).1 hb
  · exact (innerToken_ne b).2 hb

/-- A frame's tokens hold its own STX and ETX and no other (40_codec.md R154). -/
theorem count_frameTokens (p : SpFields) :
    (frameTokens p).count (.esc .stx) = 1 ∧ (frameTokens p).count (.esc .etx) = 1 := by
  rw [frameTokens_eq]
  simp [count_innerToken, innerToken_ne]

theorem idxOf_frameTokens (p : SpFields) :
    (frameTokens p).idxOf (.esc .stx) = 5 + p.ext.length ∧
      (frameTokens p).idxOf (.esc .etx) = 6 + p.ext.length + p.payload.length := by
  have hn : ∀ (x : List Byte) (us : List Token),
      (x.map innerToken ++ us).idxOf (.esc .stx) = x.length + us.idxOf (.esc .stx) ∧
        (x.map innerToken ++ us).idxOf (.esc .etx) = x.length + us.idxOf (.esc .etx) := fun x us => by
    constructor <;> rw [List.idxOf_append_of_notMem] <;> try rw [List.length_map]
    · exact List.count_eq_zero.mp (count_innerToken x).1
    · exact List.count_eq_zero.mp (count_innerToken x).2
  rw [frameTokens_eq]
  constructor
  · rw [List.idxOf_cons_ne _ (by decide), (hn _ _).1, List.idxOf_cons_self]
    simp
    omega
  · rw [List.idxOf_cons_ne _ (by decide), (hn _ _).2, List.idxOf_cons_ne _ (by decide), (hn _ _).2,
      List.idxOf_cons_self]
    simp
    omega

theorem length_frameTokens (p : SpFields) : (frameTokens p).length = 7 + p.ext.length + p.payload.length := by
  simp [frameTokens]; omega

theorem length_logicalFrame (p : SpFields) : (logicalFrame p).length = 7 + p.ext.length + p.payload.length := by
  rw [← map_tokenByte_frameTokens, List.length_map, length_frameTokens]

/-- A frame on the wire is longer than SP_MIN_RAW. -/
theorem spMinRaw_le_spWire (p : SpFields) : ¬ (spWire p).length < Config.spMinRaw := by
  have h : ∀ ts : List Token, ts.length ≤ (ts.flatMap tokenWire).length := fun ts => by
    induction ts with
    | nil => simp
    | cons t ts ih =>
      have : 1 ≤ (tokenWire t).length := by cases t <;> simp [tokenWire]
      simp only [List.flatMap_cons, List.length_append, List.length_cons]
      omega
  have := h (frameTokens p)
  simp only [spWire, List.length_append, length_crcSpField, List.length_cons, List.length_nil, Config.spMinRaw]
  rw [length_frameTokens] at this
  omega

/-- Where tokens follow a frame's own, the verdict is still its own markers, if those add no STX or ETX. -/
theorem destuff_frame (buf : List Byte) (p : SpFields) (us : List Token) (ht : tokens buf = frameTokens p ++ us)
    (hs : us.count (.esc .stx) = 0) (he : us.count (.esc .etx) = 0) :
    (destuff buf).marks = some (5 + p.ext.length, 6 + p.ext.length + p.payload.length) := by
  obtain ⟨c1, c2⟩ := count_frameTokens p
  obtain ⟨i1, i2⟩ := idxOf_frameTokens p
  rw [destuff_marks, ht, List.count_append, List.count_append, List.idxOf_append_of_mem, List.idxOf_append_of_mem]
  · omega
  · exact List.count_pos_iff.mp (by omega)
  · exact List.count_pos_iff.mp (by omega)

/-- A frame sent as it must be is accepted with its own fields (42_sp_parser.md R200 to R210). -/
theorem parseSpFrame_spWire (p : SpFields) (h : spFrameOk p = true) : parseSpFrame (spWire p) = .ok p := by
  simp only [spFrameOk, Bool.and_eq_true] at h
  obtain ⟨⟨⟨hh, hp⟩, hc⟩, -⟩ := h
  have ht : tokens (stripSync (spWire p)) = frameTokens p ++ _ :=
    List.append_nil (spWire p) ▸ (tokens_spWire p hh hp []).trans
      (congrArg _ ((congrArg tokens (List.append_nil _)).trans (tokens_crcSpField _ hc)))
  have hm := destuff_frame _ p _ ht (by simp) (by simp)
  have ho : (destuff (stripSync (spWire p))).out = logicalFrame p ++ crcSpField (logicalFrame p) := by
    rw [destuff_out, ht, List.map_append, map_tokenByte_frameTokens]
    rfl
  rw [parseSpFrame, if_neg (spMinRaw_le_spWire p)]
  simp only [hm, ho]
  have hl := length_logicalFrame p
  have e1 : 6 + p.ext.length + p.payload.length + 1 = (logicalFrame p).length := by omega
  have e2 : 6 + p.ext.length + p.payload.length + 2 = (logicalFrame p).length + 1 := by omega
  rw [parseLogical_header]
  · rw [if_neg (by omega), if_neg (by simp [logicalFrame, byteAt, Config.soh]), if_neg (by omega)]
    congr 1
    have hx : logicalFrame p ++ crcSpField (logicalFrame p) =
        [Config.soh, p.dad, p.sad, p.isi, p.fnc] ++ p.ext ++
          ([Config.stx] ++ p.payload ++ [Config.etx] ++ crcSpField (logicalFrame p)) := by simp [logicalFrame]
    have hy : logicalFrame p ++ crcSpField (logicalFrame p) =
        ([Config.soh, p.dad, p.sad, p.isi, p.fnc] ++ p.ext ++ [Config.stx]) ++ p.payload ++
          ([Config.etx] ++ crcSpField (logicalFrame p)) := by simp [logicalFrame]
    have s1 : slice (logicalFrame p ++ crcSpField (logicalFrame p)) 5 (5 + p.ext.length) = p.ext := by
      rw [hx]; exact slice_append_mid [Config.soh, p.dad, p.sad, p.isi, p.fnc] p.ext _
    have s2 : slice (logicalFrame p ++ crcSpField (logicalFrame p)) (5 + p.ext.length + 1)
        (6 + p.ext.length + p.payload.length) = p.payload := by
      have := slice_append_mid ([Config.soh, p.dad, p.sad, p.isi, p.fnc] ++ p.ext ++ [Config.stx]) p.payload
        ([Config.etx] ++ crcSpField (logicalFrame p))
      rw [hy]
      convert this using 2 <;> simp <;> omega
    rw [s1, s2]
    rfl
  · rw [List.length_append, length_crcSpField]; omega
  · rw [e1, e2, List.take_left]
    simp [byteAt, crcSpField]

end Sys2Proof.Machine
end

