-- ==== Sys2Proof/Laws/Modbus.lean ====
section
/-! SUPPORT. The Modbus engine: what each of its operations can do, said once. -/

namespace Sys2Proof.Machine

/-- Abandoning a frame changes nothing, or sends one exception response (60_exceptions.md R401, R402). -/
theorem abandonMb_cases (s : State) (f : List Byte) (e : MbError) :
    (mbErrorResponse e = none ∧ s.abandonMb f e = s) ∨
      ∃ code, mbErrorResponse e = some code ∧
        s.abandonMb f e = s.emitA (exceptionFrame (byteAt f 0) (fcLow (byteAt f 1)) code) := by
  unfold State.abandonMb
  split
  · exact .inr ⟨_, by assumption, rfl⟩
  · exact .inl ⟨by assumption, rfl⟩

/-- The Modbus engine's reach: the bank, the actual byte count, at most one frame, and records appended. `w` says
which registers may change. -/
structure MbReach (w : Nat → Prop) (s t : State) : Prop where
  rest : t = { s with bank := t.bank, mbActualLen := t.mbActualLen, txA := t.txA, events := t.events }
  sent : t.txA = s.txA ∨ ∃ frame, t.txA = s.txA ++ [frame]
  made : s.events <+: t.events
  regs : ∀ a < 224, t.reg a ≠ s.reg a → w a

theorem MbReach.refl (w : Nat → Prop) (s : State) : MbReach w s s :=
  ⟨rfl, .inl rfl, List.prefix_rfl, fun _ _ h => absurd rfl h⟩

theorem MbReach.emitA (w : Nat → Prop) (s : State) (frame : List Byte) : MbReach w s (s.emitA frame) :=
  ⟨rfl, .inr ⟨frame, rfl⟩, List.prefix_rfl, fun _ _ h => absurd rfl h⟩

theorem MbReach.mono {w v : Nat → Prop} {s t : State} (h : MbReach w s t) (hwv : ∀ a < 224, w a → v a) :
    MbReach v s t :=
  ⟨h.rest, h.sent, h.made, fun a ha hne => hwv a ha (h.regs a ha hne)⟩

theorem abandonMb_reach (w : Nat → Prop) (s : State) (f : List Byte) (e : MbError) :
    MbReach w s (s.abandonMb f e) := by
  obtain ⟨-, h⟩ | ⟨code, -, h⟩ := abandonMb_cases s f e <;> rw [h]
  · exact .refl w s
  · exact .emitA w s _

/-- PERSIST_CHECK adds at most one record (43_modbus.md R268). -/
theorem persistCheck_cases (reg : Nat) (val : Word) (s : State) :
    (s.cfg.persist.lookup reg = none ∧ persistCheck reg val s = s) ∨
      ∃ index, s.cfg.persist.lookup reg = some index ∧ persistCheck reg val s = s.record (.persist index val) := by
  unfold persistCheck
  split
  · exact .inr ⟨_, by assumption, rfl⟩
  · exact .inl ⟨by assumption, rfl⟩

/-- FC03 writes nothing (43_modbus.md R264). -/
theorem fc03_reach (f : List Byte) (s : State) : MbReach (fun _ => False) s (fc03 f s) := by
  unfold fc03
  split
  · exact abandonMb_reach _ _ _ _
  · exact .emitA _ _ _

/-- A request that passes FC06's checks names a register of CTRL or WRITEW (R266). -/
theorem fc06Error_none {f : List Byte} (h : fc06Error f = none) :
    f.length = 8 ∧ (fieldAt f 2).toNat < 224 ∧ (inCtrl (fieldAt f 2).toNat ∨ inWritew (fieldAt f 2).toNat) := by
  simp only [fc06Error, ne_eq, ge_iff_le] at h
  split at h
  · cases h
  · split at h
    · cases h
    · rename_i h1 h2
      simp only [Config.readwBase, Config.writewBase, Config.bankSize, inCtrl, inWritew] at *
      omega

/-- FC06 writes at most the register it names, in CTRL or WRITEW (R266, R267). -/
theorem fc06_reach (f : List Byte) (s : State) : MbReach (fun a => inCtrl a ∨ inWritew a) s (fc06 f s) := by
  unfold fc06
  split
  · exact abandonMb_reach _ _ _ _
  · rename_i h
    obtain ⟨-, hlt, hin⟩ := fc06Error_none h
    have hregs : ∀ a < 224, (s.setReg (fieldAt f 2).toNat (fieldAt f 4)).reg a ≠ s.reg a → inCtrl a ∨ inWritew a := by
      intro a _ hne
      rw [State.reg_setReg _ _ _ _ hlt] at hne
      split at hne
      · subst_vars; exact hin
      · exact absurd rfl hne
    obtain ⟨-, hp⟩ | ⟨index, -, hp⟩ :=
      persistCheck_cases (fieldAt f 2).toNat (fieldAt f 4) (s.setReg (fieldAt f 2).toNat (fieldAt f 4)) <;>
      simp only [hp]
    · exact ⟨rfl, .inr ⟨_, rfl⟩, List.prefix_rfl, hregs⟩
    · exact ⟨rfl, .inr ⟨_, rfl⟩, List.prefix_append _ _, hregs⟩

/-- A request that passes FC10's checks holds its data and a window of READW and WRITEW (R270 to R272). -/
theorem fc10Error_none {f : List Byte} (h : fc10Error f = none) :
    f.length = 9 + (byteAt f 6).toNat ∧ (byteAt f 6).toNat = 2 * (fieldAt f 4).toNat ∧
      1 ≤ (fieldAt f 4).toNat ∧ (fieldAt f 4).toNat ≤ 123 ∧
      0x20 ≤ (fieldAt f 2).toNat ∧ (fieldAt f 2).toNat + (fieldAt f 4).toNat ≤ 224 := by
  simp only [fc10Error, ne_eq] at h
  repeat' split at h
  all_goals cases h
  simp only [Config.mbMaxWriteQty, Config.readwBase, Config.bankSize] at *
  omega

theorem length_fc10Data {f : List Byte} (h : f.length = 9 + (byteAt f 6).toNat) :
    (fc10Data f).length = (byteAt f 6).toNat := by
  simp only [fc10Data, slice, List.length_drop, List.length_take]
  omega

/-- FC10 writes at most its window of READW and WRITEW (R272, R273). -/
theorem fc10_reach (f : List Byte) (s : State) : MbReach (fun a => inReadw a ∨ inWritew a) s (fc10 f s) := by
  unfold fc10
  split
  · exact abandonMb_reach _ _ _ _
  · rename_i h
    obtain ⟨hlen, hbc, hq1, -, hlo, hhi⟩ := fc10Error_none h
    refine ⟨rfl, .inr ⟨_, rfl⟩, List.prefix_rfl, fun a ha hne => ?_⟩
    have hw : (dataWords (fc10Data f)).length = (fieldAt f 4).toNat := by
      rw [length_dataWords, length_fc10Data hlen, halfUp]; omega
    by_cases hin : (fieldAt f 2).toNat ≤ a ∧ a < (fieldAt f 2).toNat + (fieldAt f 4).toNat
    · simp only [inReadw, inWritew]; omega
    · exact absurd (bankRead_memWrite_out _ _ _ _ (by omega)) hne

theorem decodeFunction_eq (fc : Byte) :
    (decodeFunction fc = .readHolding ↔ fc = 0x03#8) ∧ (decodeFunction fc = .writeSingle ↔ fc = 0x06#8) ∧
      (decodeFunction fc = .writeMultiple ↔ fc = 0x10#8) ∧
      (decodeFunction fc = .other ↔ fc ≠ 0x03#8 ∧ fc ≠ 0x06#8 ∧ fc ≠ 0x10#8) := by
  revert fc; decide

theorem decodeFunction_other {fc : Byte} (h3 : fc ≠ 0x03#8) (h6 : fc ≠ 0x06#8) (h10 : fc ≠ 0x10#8) :
    decodeFunction fc = .other := (decodeFunction_eq fc).2.2.2.mpr ⟨h3, h6, h10⟩

/-- The registers a frame of function code `fc` may write (20_memory.md R78). -/
abbrev mbMayWrite (fc : Byte) (a : Nat) : Prop :=
  (fc = 0x06#8 ∧ (inCtrl a ∨ inWritew a)) ∨ (fc = 0x10#8 ∧ (inReadw a ∨ inWritew a))

/-- The frame step of link A, whatever the frame (43_modbus.md R254). -/
theorem mbFrameStep_reach (f : List Byte) (s : State) : MbReach (mbMayWrite (byteAt f 1)) s (mbFrameStep f s) := by
  unfold mbFrameStep
  split
  · exact abandonMb_reach _ _ _ _
  · unfold mbFunction
    split
    · exact (fc03_reach f s).mono (fun _ _ h => h.elim)
    · exact (fc06_reach f s).mono (fun _ _ h => .inl ⟨(decodeFunction_eq _).2.1.mp (by assumption), h⟩)
    · exact (fc10_reach f s).mono (fun _ _ h => .inr ⟨(decodeFunction_eq _).2.2.1.mp (by assumption), h⟩)
    · exact abandonMb_reach _ _ _ _

/-- A request row run on its own reaches what its operation reaches (R256). -/
theorem forSlave_reach {w : Nat → Prop} {f : List Byte} {op : List Byte → State → State} {s : State}
    (h : MbReach w s (op f s)) : MbReach w s (forSlave f op s) := by
  unfold forSlave
  split
  · exact h
  · exact abandonMb_reach _ _ _ _

/-- A request frame for this slave is handled by its function (R254 to R258). -/
theorem mbFrameStep_requestFrame (s : State) (addr fc : Byte) (data : List Byte) :
    mbFrameStep (requestFrame addr fc data) s =
      if addr = s.cfg.mbSlaveAddr then mbFunction (requestFrame addr fc data) s else s := by
  unfold mbFrameStep mbFrameError
  rw [if_neg (by simp [Config.mbMinLen]), byteAt_requestFrame_zero, crcMbPasses_requestFrame]
  by_cases h : addr = s.cfg.mbSlaveAddr
  · simp [h]
  · simp [h, State.abandonMb, mbErrorResponse]

theorem forSlave_requestFrame (s : State) (op : List Byte → State → State) (addr fc : Byte) (data : List Byte) :
    forSlave (requestFrame addr fc data) op s =
      if addr = s.cfg.mbSlaveAddr then op (requestFrame addr fc data) s else s := by
  rw [forSlave, byteAt_requestFrame_zero]
  rfl

/-- An error answered with an exception code: address, function code with bit 7 set, code, CRC (R260). -/
theorem abandonMb_requestFrame (s : State) (addr fc : Byte) (data : List Byte) (e : MbError) :
    s.abandonMb (requestFrame addr fc data) e =
      match mbErrorResponse e with
      | some code => s.answered (withCrcMb [addr, fc ||| 0x80#8, excByte code])
      | none => s := by
  rw [← exceptionFc_fcLow]
  rfl

/-- The first operand field of a request (30_encoding.md R109). -/
theorem fieldAt_requestFrame_two (addr fc : Byte) (x : Word) (data : List Byte) :
    fieldAt (requestFrame addr fc (wordBytes x ++ data)) 2 = x := by
  rw [requestFrame, fieldAt_withCrcMb _ _ (by simp)]
  simp [fieldAt, byteAt, wordBytes]

/-- The second operand field of a request (30_encoding.md R109). -/
theorem fieldAt_requestFrame_four (addr fc : Byte) (x y : Word) (data : List Byte) :
    fieldAt (requestFrame addr fc (wordBytes x ++ (wordBytes y ++ data))) 4 = y := by
  rw [requestFrame, fieldAt_withCrcMb _ _ (by simp; omega)]
  simp [fieldAt, byteAt, wordBytes]

/-- The byte count of a 0x10 request (30_encoding.md R104). -/
theorem byteAt_requestFrame_six (addr fc : Byte) (x y : Word) (bc : Byte) (data : List Byte) :
    byteAt (requestFrame addr fc (wordBytes x ++ (wordBytes y ++ bc :: data))) 6 = bc := by
  rw [requestFrame, byteAt_withCrcMb _ _ (by simp; omega)]
  simp [byteAt, wordBytes]

/-- The data of a 0x10 request whose byte count is its data's length (30_encoding.md R104). -/
theorem fc10Data_requestFrame (addr fc : Byte) (x y : Word) (bc : Byte) (data : List Byte)
    (h : data.length = bc.toNat) :
    fc10Data (requestFrame addr fc (wordBytes x ++ (wordBytes y ++ bc :: data))) = data := by
  rw [fc10Data, byteAt_requestFrame_six, ← h]
  have : requestFrame addr fc (wordBytes x ++ (wordBytes y ++ bc :: data)) =
      ([addr, fc] ++ wordBytes x ++ wordBytes y ++ [bc]) ++ data ++
        crcMbField ([addr, fc] ++ (wordBytes x ++ (wordBytes y ++ bc :: data))) := by
    simp [requestFrame, withCrcMb, wordBytes]
  rw [this]
  exact slice_append_mid ([addr, fc] ++ wordBytes x ++ wordBytes y ++ [bc]) data _

end Sys2Proof.Machine
end

