-- ==== Sys2Proof/Laws/Decode.lean ====
section
/-! SUPPORT. The decoder on the encodings of each space of 30_encoding.md. -/

namespace Sys2Proof

open Machine

/-- A request frame that fits decodes by its function code (30_encoding.md R110). -/
theorem decodeRequest_requestFrame (addr fc : Byte) (data : List Byte) (h : frameFits data = true) :
    decodeRequest (requestFrame addr fc data) =
      match decodeFunction fc with
      | .readHolding => .ok (.mbFc03 addr data)
      | .writeSingle => .ok (.mbFc06 addr data)
      | .writeMultiple => .ok (.mbFc10 addr data)
      | .other => .ok (.mbIllegal addr fc data) := by
  simp only [frameFits, decide_eq_true_eq, Config.mbFrameMax] at h
  have hf : framed Config.mbFrameMax (requestFrame addr fc data) = requestFrame addr fc data :=
    framed_of_le _ _ (by simp only [length_requestFrame, Config.mbFrameMax]; omega)
  have h1 : requestFrame addr fc data ≠ [] := by simp [requestFrame, withCrcMb]
  have h2 : ¬ (requestFrame addr fc data).length < Config.mbMinLen := by
    simp only [length_requestFrame, Config.mbMinLen]; omega
  rw [decodeRequest, hf, decodeFramed, if_neg h1, if_neg h2, crcMbPasses_requestFrame, slice_requestFrame]
  rfl

/-- A response frame passes the decoder's first checks. -/
theorem decodeResponse_withCrcMb (x : List Byte) (h : 3 ≤ x.length) :
    decodeResponse (withCrcMb x) =
      if (byteAt x 1).getLsbD 7 then
        match excOf (byteAt x 2) with
        | some code =>
          if x.length = 3 then .ok (.mbExceptionRsp (byteAt x 0) (fcLow (byteAt x 1)) code) else .error .notAResponse
        | none => .error .notAResponse
      else
        match decodeFunction (byteAt x 1) with
        | .readHolding => decodeFc03Rsp (withCrcMb x)
        | .writeSingle =>
          if x.length = 6 then .ok (.mbFc06Rsp (byteAt x 0) (fieldAt (withCrcMb x) 2) (fieldAt (withCrcMb x) 4))
          else .error .notAResponse
        | .writeMultiple =>
          if x.length = 6 then .ok (.mbFc10Rsp (byteAt x 0) (fieldAt (withCrcMb x) 2) (fieldAt (withCrcMb x) 4))
          else .error .notAResponse
        | .other => .error .notAResponse := by
  have h5 : (withCrcMb x).length = 5 ↔ x.length = 3 := by rw [length_withCrcMb]; omega
  have h8 : (withCrcMb x).length = 8 ↔ x.length = 6 := by rw [length_withCrcMb]; omega
  rw [decodeResponse, if_neg]
  · simp only [byteAt_withCrcMb x 0 (by omega), byteAt_withCrcMb x 1 (by omega), byteAt_withCrcMb x 2 (by omega), h5, h8]
    all_goals rfl
  · rw [length_withCrcMb, crcMbPasses_withCrcMb]
    simp
    omega

/-- The words of a 0x03 response (30_encoding.md R105). -/
theorem decodeFc03Rsp_fc03Frame (addr : Byte) (values : List Word) (h1 : 1 ≤ values.length)
    (h2 : values.length ≤ 125) : decodeFc03Rsp (fc03Frame addr values) = .ok (.mbFc03Rsp addr values) := by
  have hs : slice (fc03Frame addr values) 3 ((fc03Frame addr values).length - 2) = wordsBytes values := by
    have := slice_append_mid [addr, 0x03#8, BitVec.ofNat 8 (2 * values.length)] (wordsBytes values)
      (crcMbField ([addr, 0x03#8, BitVec.ofNat 8 (2 * values.length)] ++ wordsBytes values))
    convert this using 2
    · rfl
    · rfl
    · rw [fc03Frame, length_withCrcMb, List.length_append]
      rfl
  have hb : (byteAt (fc03Frame addr values) 2).toNat = 2 * values.length := by
    show (BitVec.ofNat 8 (2 * values.length)).toNat = _
    rw [BitVec.toNat_ofNat]
    exact Nat.mod_eq_of_lt (by omega)
  have hl : (fc03Frame addr values).length = 5 + 2 * values.length := by
    simp [fc03Frame]
    omega
  rw [decodeFc03Rsp, hs, dataWords_wordsBytes, if_pos ⟨hl, hb, h1, h2⟩]
  rfl

/-- The bytes of one token are read as that token, if it reads back (30_encoding.md R115). -/
theorem decodeToken_tokenWire (t : Token) : decodeToken (tokenWire t) = .ok (tokenInstr t) := by
  cases t with
  | esc m => cases m <;> rfl
  | literal b => rfl

/-- The command word of a mode and an id (30_encoding.md R119). -/
theorem decodeCommand_be16 (mode tid : Byte) :
    decodeCommand (be16 mode tid) =
      if mode = 0xFF#8 then (if tid = 0xFF#8 then .cmdSentinel else .cmdIssueRaw tid) else .cmdIssue mode tid := by
  have hs : be16 mode tid = Config.sentinel ↔ mode = 0xFF#8 ∧ tid = 0xFF#8 := be16_inj mode tid 0xFF#8 0xFF#8
  rw [decodeCommand, cmdMode_be16, cmdTid_be16]
  by_cases h1 : mode = 0xFF#8
  · by_cases h2 : tid = 0xFF#8
    · rw [if_pos (hs.mpr ⟨h1, h2⟩), if_pos h1, if_pos h2]
    · rw [if_neg (fun h => h2 (hs.mp h).2), if_pos h1, if_pos h1, if_neg h2]
  · rw [if_neg (fun h => h1 (hs.mp h).1), if_neg h1, if_neg h1]

theorem bankAddr_ofNat (a : Fin 224) : bankAddr (BitVec.ofNat 8 a.val) = some a := by
  have h : (BitVec.ofNat 8 a.val).toNat = a.val := by
    rw [BitVec.toNat_ofNat]
    exact Nat.mod_eq_of_lt (by omega)
  rw [bankAddr, dif_pos (by rw [h]; exact a.isLt)]
  congr 1
  exact Fin.ext h

theorem nsOf_nsByte (ns : Ns) : nsOf (nsByte ns) = some ns := by cases ns <;> rfl

/-- The operands of HOST_TMPL_WR read back. -/
theorem decodeTemplateWrite_eq (ns : Ns) (id : Fin 42) (record : List Byte) (h : recordOk record = true) :
    decodeTemplateWrite (nsByte ns) (BitVec.ofNat 8 id.val) record = .ok (.hostTmplWr ns id record) := by
  have hn : (BitVec.ofNat 8 id.val).toNat = id.val := by
    rw [BitVec.toNat_ofNat]
    exact Nat.mod_eq_of_lt (by omega)
  unfold decodeTemplateWrite
  rw [nsOf_nsByte]
  simp only
  rw [dif_pos (by rw [hn]; exact id.isLt), if_pos h]
  congr 2
  exact Fin.ext hn

/-- A well-formed SP frame's packet decodes to it (30_encoding.md R112). -/
theorem decodeSpFrame_spWire (p : SpFields) (h : spFrameOk p = true) :
    decodeSpFrame (spWire p) = .ok (.spFrame p.dad p.sad p.isi p.fnc p.ext p.payload) := by
  have hl : (spWire p).length ≤ Config.spFrameMax := by
    simp only [spFrameOk, Bool.and_eq_true, decide_eq_true_eq] at h
    exact h.2
  rw [decodeSpFrame, if_neg (by simp [spWire]), if_neg (by omega), parseSpFrame_spWire p h]

end Sys2Proof
end

