-- ==== Sys2Proof/Laws/SpLink.lean ====
section
/-! SUPPORT. The SP request path: what each of its operations can do, said once. -/

namespace Sys2Proof.Machine

/-- The SP engine's reach on the request path: STATUS_REG and CMD_REG, link B, the remembered command, the draws of
its template read. `w` says which registers may change. -/
structure SpIssueReach (w : Nat → Prop) (s t : State) : Prop where
  rest : t = { s with
    bank := t.bank, txB := t.txB, spActive := t.spActive, spReqFnc := t.spReqFnc, spLast := t.spLast
    storeAnswers := t.storeAnswers, draws := t.draws }
  sent : s.txB <+: t.txB
  remembered : s.spActive = s.spLast → (s.spReqFnc ≠ none → s.spActive ≠ none) →
    t.spActive = t.spLast ∧ (t.spReqFnc ≠ none → t.spActive ≠ none)
  regs : ∀ a < 224, t.reg a ≠ s.reg a → w a
  status : t.reg s.cfg.statusReg.val ≠ s.reg s.cfg.statusReg.val → s.cfg.statusReg ≠ s.cfg.cmdReg →
    t.reg s.cfg.statusReg.val ∈ [s.cfg.errShort, s.cfg.errCrc, s.cfg.errAlloc, s.cfg.errMarkers]

theorem SpIssueReach.refl (w : Nat → Prop) (s : State) : SpIssueReach w s s :=
  ⟨rfl, List.prefix_rfl, fun h1 h2 => ⟨h1, h2⟩, fun _ _ h => absurd rfl h, fun h => absurd rfl h⟩

/-- One draw is taken for a TemplateRead, and nothing else changes (10_state.md R58). -/
theorem drawn_eq (s : State) : s.drawn = { s with storeAnswers := s.drawn.storeAnswers, draws := s.drawn.draws } := by
  unfold State.drawn
  split <;> rfl

theorem afterResolve_cases (s : State) (tid : Byte) :
    (tid.toNat < 42 ∧ afterResolve s tid = s.drawn) ∨ (¬ tid.toNat < 42 ∧ afterResolve s tid = s) := by
  unfold afterResolve
  split
  · exact .inl ⟨by assumption, rfl⟩
  · exact .inr ⟨by assumption, rfl⟩

theorem afterResolve_eq (s : State) (tid : Byte) : afterResolve s tid =
    { s with storeAnswers := (afterResolve s tid).storeAnswers, draws := (afterResolve s tid).draws } := by
  obtain ⟨-, h⟩ | ⟨-, h⟩ := afterResolve_cases s tid <;> rw [h]
  exact drawn_eq s

/-- A record with a payload is one whose length is at most 95 (30_encoding.md R121). -/
theorem viewRecord_payload (r p : List Byte) :
    viewRecord r = .payload p ↔ (byteAt r 0).toNat ≤ 95 ∧ p = slice r 1 (1 + (byteAt r 0).toNat) := by
  simp only [viewRecord]
  split
  · constructor
    · intro h; cases h
    · rintro ⟨h, -⟩; omega
  · split
    · constructor
      · intro h; cases h
      · rintro ⟨h, -⟩; omega
    · constructor
      · intro h; cases h; exact ⟨by omega, rfl⟩
      · rintro ⟨-, rfl⟩; rfl

theorem recordPayload_ok (r : Record) (p : List Byte) :
    recordPayload r = .ok p ↔ (byteAt r 0).toNat ≤ 95 ∧ p = slice r 1 (1 + (byteAt r 0).toNat) := by
  rw [← viewRecord_payload, recordPayload]
  cases viewRecord r <;> simp

/-- RESOLVE of an id in range: a payload where the read succeeds and the record has one (44_sp_link.md R303). -/
theorem resolve_ok (s : State) (tid : Byte) (htid : tid.toNat < 42) (hr : s.readFails = false)
    (hlen : (byteAt (s.template .req ⟨tid.toNat, htid⟩) 0).toNat ≤ 95) :
    resolve s tid = .ok (slice (s.template .req ⟨tid.toNat, htid⟩) 1
      (1 + (byteAt (s.template .req ⟨tid.toNat, htid⟩) 0).toNat)) := by
  unfold resolve
  rw [dif_pos htid]
  simp only [State.templateRead, hr, Bool.false_eq_true, if_false]
  exact (recordPayload_ok _ _).mpr ⟨hlen, rfl⟩

/-- RESOLVE finds no payload: id, read, or record (44_sp_link.md R303). -/
theorem resolve_error (s : State) (tid : Byte)
    (h : ∀ htid : tid.toNat < 42, s.readFails = true ∨
      95 < (byteAt (s.template .req ⟨tid.toNat, htid⟩) 0).toNat) : ∃ e, resolve s tid = .error e := by
  unfold resolve
  split
  · rename_i htid
    unfold State.templateRead
    obtain hr | hl := h htid
    · rw [if_pos hr]; exact ⟨_, rfl⟩
    · cases s.readFails with
      | true => exact ⟨_, rfl⟩
      | false =>
        simp only [Bool.false_eq_true, if_false]
        cases hv : recordPayload (s.template .req ⟨tid.toNat, htid⟩) with
        | ok p => have := ((recordPayload_ok _ _).mp hv).1; omega
        | error e => exact ⟨e, rfl⟩
  · exact ⟨_, rfl⟩

/-- The three ends of ISSUE (44_sp_link.md R302). -/
theorem issue_cases (c : Word) (s : State) :
    ((∃ e, resolve s (cmdTid c) = .error e) ∧ issue c s = afterResolve s (cmdTid c)) ∨
      (∃ payload, resolve s (cmdTid c) = .ok payload ∧ buildRequest s.cfg (requestBody s.cfg payload) = none ∧
        issue c s = (afterResolve s (cmdTid c)).abandonSp .requestTooLong) ∨
      ∃ payload frame, resolve s (cmdTid c) = .ok payload ∧
        buildRequest s.cfg (requestBody s.cfg payload) = some frame ∧
        issue c s = sendRequest c payload frame (afterResolve s (cmdTid c)) := by
  unfold issue
  cases hr : resolve s (cmdTid c) with
  | error e => exact .inl ⟨⟨e, rfl⟩, rfl⟩
  | ok payload =>
    cases hb : buildRequest s.cfg (requestBody s.cfg payload) with
    | none => exact .inr (.inl ⟨payload, rfl, hb, by simp [hb]⟩)
    | some frame => exact .inr (.inr ⟨payload, frame, rfl, hb, by simp [hb]⟩)

/-- ISSUE changes no register but STATUS_REG, and sends at most one frame (44_sp_link.md R302 to R306). -/
theorem issue_reach (c : Word) (s : State) : SpIssueReach (fun a => a = s.cfg.statusReg.val) s (issue c s) := by
  have ha := afterResolve_eq s (cmdTid c)
  obtain ⟨-, h⟩ | ⟨payload, -, -, h⟩ | ⟨payload, frame, -, -, h⟩ := issue_cases c s <;> rw [h, ha]
  · exact ⟨rfl, List.prefix_rfl, fun h1 h2 => ⟨h1, h2⟩, fun _ _ h => absurd rfl h, fun h => absurd rfl h⟩
  · refine ⟨rfl, List.prefix_rfl, fun h1 h2 => ⟨h1, h2⟩, fun a _ hne => ?_, fun _ _ => ?_⟩
    · rw [State.reg_abandonSp] at hne
      split at hne
      · assumption
      · exact absurd rfl hne
    · rw [State.reg_abandonSp, if_pos rfl]
      exact spErrorStatus_mem _ _
  · refine ⟨rfl, List.prefix_append _ _, fun _ _ => ⟨rfl, fun _ => ?_⟩, fun _ _ h => absurd rfl h, fun h => absurd rfl h⟩
    show some c ≠ none
    simp

/-- SP_POLL with no command pending does nothing (44_sp_link.md R301). -/
theorem poll_sentinel (s : State) (h : s.cmd = Config.sentinel) : poll s = s := by rw [poll, if_pos h]

theorem poll_command (s : State) (h : s.cmd ≠ Config.sentinel) : poll s = (issue s.cmd s).setCmd Config.sentinel := by
  rw [poll, if_neg h]

/-- SP_POLL changes no register but CMD_REG and STATUS_REG, and always leaves the sentinel (44_sp_link.md R307). -/
theorem poll_reach (s : State) :
    SpIssueReach (fun a => a = s.cfg.cmdReg.val ∨ a = s.cfg.statusReg.val) s (poll s) ∧
      (poll s).cmd = Config.sentinel := by
  by_cases h : s.cmd = Config.sentinel
  · rw [poll_sentinel s h]
    exact ⟨.refl _ s, h⟩
  · rw [poll_command s h]
    have hi := issue_reach s.cmd s
    have hcfg : (issue s.cmd s).cfg = s.cfg := by rw [hi.rest]
    refine ⟨⟨by rw [hi.rest]; rfl, by simpa using hi.sent, hi.remembered, fun a ha hne => ?_, fun hne hdif => ?_⟩, ?_⟩
    · rw [State.reg_setCmd, hcfg] at hne
      split at hne
      · exact .inl (by assumption)
      · exact .inr (hi.regs a ha hne)
    · have hv : s.cfg.statusReg.val ≠ s.cfg.cmdReg.val := fun hv => hdif (Fin.ext hv)
      rw [State.reg_setCmd, hcfg, if_neg hv] at hne ⊢
      exact hi.status hne hdif
    · rw [State.cmd, State.reg_setCmd, State.setCmd_cfg, if_pos rfl]

/-- SP_REPEAT_DUE issues the last command again, or does nothing (44_sp_link.md R308). -/
theorem repeatLast_cases (s : State) :
    (∃ c, s.spLast = some c ∧ s.cmd = Config.sentinel ∧ repeatLast s = issue c s) ∨
      ((s.spLast = none ∨ s.cmd ≠ Config.sentinel) ∧ repeatLast s = s) := by
  unfold repeatLast
  cases hl : s.spLast with
  | none => exact .inr ⟨.inl rfl, rfl⟩
  | some c =>
    by_cases h : s.cmd = Config.sentinel
    · exact .inl ⟨c, rfl, h, by simp [h]⟩
    · exact .inr ⟨.inr h, by simp [h]⟩

theorem repeatLast_reach (s : State) : SpIssueReach (fun a => a = s.cfg.statusReg.val) s (repeatLast s) := by
  obtain ⟨c, -, -, h⟩ | ⟨-, h⟩ := repeatLast_cases s <;> rw [h]
  · exact issue_reach c s
  · exact .refl _ s

/-- A request that fits: the frame BUILD gives (44_sp_link.md R304). -/
theorem buildRequest_some (cfg : Params) (body : List Byte) (h : (stuffBytes body).length ≤ cfg.spTxMax - 4) :
    buildRequest cfg body = some ([Config.sync, Config.sync] ++ stuffBytes body ++ crcSpField body) := by
  rw [buildRequest, stuff, if_neg (by omega)]
  rfl

/-- A request that does not fit is CAPACITY (44_sp_link.md R305). -/
theorem buildRequest_none (cfg : Params) (body : List Byte) (h : cfg.spTxMax - 4 < (stuffBytes body).length) :
    buildRequest cfg body = none := by
  rw [buildRequest, stuff, if_pos h]
  rfl

/-- A stuffed sequence is at most twice as long (40_codec.md R151). -/
theorem length_stuffBytes_le (x : List Byte) : (stuffBytes x).length ≤ 2 * x.length := by
  induction x with
  | nil => simp [stuffBytes]
  | cons b x ih =>
    have hb : (tokenWire (stuffToken b)).length ≤ 2 := by cases stuffToken b <;> simp [tokenWire]
    simp only [stuffBytes, List.flatMap_cons, List.length_append, List.length_cons] at ih ⊢
    omega

/-- A template's payload has at most 95 bytes (30_encoding.md R121). -/
theorem length_resolve (s : State) (tid : Byte) (payload : List Byte) (h : resolve s tid = .ok payload) :
    payload.length ≤ 95 := by
  unfold resolve at h
  split at h
  · split at h
    · cases h
    · obtain ⟨hle, rfl⟩ := (recordPayload_ok _ _).mp h
      simp only [slice, List.length_drop, List.length_take]
      omega
  · cases h

end Sys2Proof.Machine
end

