-- ==== Sys2Proof/Laws/Step.lean ====
section
/-! SUPPORT. What a step can do, said once: by the port its row works through. -/

namespace Sys2Proof.Machine

/-- A row of Port A reaches what the Modbus engine reaches, and its receive buffer stays within its bound. -/
theorem exec_portA {i : Instr} {s t : State} (h : exec i s = .next t) (hp : portA i = true) :
    ∃ buf, MbReach (mayWrite s i) { s with mbBuf := buf } t ∧
      (s.mbBuf.length ≤ s.cfg.mbBufMax → buf.length ≤ s.cfg.mbBufMax) := by
  cases i <;> first | (simp [portA] at hp; done) | skip
  case mbFc03 => cases h; exact ⟨s.mbBuf, forSlave_reach (fc03_reach _ _), id⟩
  case mbFc06 => cases h; exact ⟨s.mbBuf, forSlave_reach (fc06_reach _ _), id⟩
  case mbFc10 => cases h; exact ⟨s.mbBuf, forSlave_reach (fc10_reach _ _), id⟩
  case mbIllegal => cases h; exact ⟨s.mbBuf, forSlave_reach (abandonMb_reach _ _ _ _), id⟩
  case mbExceptionRsp => cases h; exact ⟨s.mbBuf, .emitA _ _ _, id⟩
  case mbFc03Rsp => cases h; exact ⟨s.mbBuf, .emitA _ _ _, id⟩
  case mbFc06Rsp => cases h; exact ⟨s.mbBuf, .emitA _ _ _, id⟩
  case mbFc10Rsp => cases h; exact ⟨s.mbBuf, .emitA _ _ _, id⟩
  case mbRxByte =>
    cases h
    exact ⟨_, .refl _ _, length_framerByte_le _⟩
  case mbSilence =>
    cases h
    by_cases he : s.mbBuf = []
    · exact ⟨s.mbBuf, by rw [if_pos he]; exact .refl _ _, id⟩
    · exact ⟨[], by rw [if_neg he]; exact mbFrameStep_reach s.mbBuf { s with mbBuf := [] }, fun _ => by simp⟩

/-- A row of Port B reaches what the SP engine reaches: on receive with a buffer that stays within its bound, or on
the request path. -/
theorem exec_portB {i : Instr} {s t : State} (h : exec i s = .next t) (hp : portB i = true) :
    (∃ rx ovf, SpReach { s with spRx := rx, spOvf := ovf } t ∧
        (s.spRx.length ≤ s.cfg.spRxMax → (s.spOvf = true → s.spRx.length = s.cfg.spRxMax) →
          rx.length ≤ s.cfg.spRxMax ∧ (ovf = true → rx.length = s.cfg.spRxMax)) ∧
        ((∀ a, t.reg a = s.reg a) ∨ ∀ a, inReadw a ∨ a = s.cfg.statusReg.val → mayWrite s i a)) ∨
      SpIssueReach (mayWrite s i) s t := by
  cases i <;> first | (simp [portB] at hp; done) | skip
  case spFrame =>
    cases h; exact .inl ⟨s.spRx, s.spOvf, dispatch_reach _ _ _, fun a b => ⟨a, b⟩, .inr fun _ h => h⟩
  case spFields =>
    cases h; exact .inl ⟨s.spRx, s.spOvf, fieldMode_reach _ _, fun a b => ⟨a, b⟩, .inr fun _ h => h⟩
  case spRaw => cases h; exact .inl ⟨s.spRx, s.spOvf, rawMode_reach _ _, fun a b => ⟨a, b⟩, .inr fun _ h => h⟩
  case spUnmatched => cases h; exact .inl ⟨s.spRx, s.spOvf, .refl _, fun a b => ⟨a, b⟩, .inl fun _ => rfl⟩
  case cmdSentinel => cases h; exact .inr (.refl _ _)
  case cmdIssueRaw => cases h; exact .inr (issue_reach _ _)
  case cmdIssue => cases h; exact .inr (issue_reach _ _)
  case spRxByte b =>
    cases h
    by_cases he : s.spRx.length < s.cfg.spRxMax
    · rw [if_pos he]
      refine .inl ⟨_, _, .refl _, fun a b => ⟨?_, fun h => ?_⟩, .inl fun _ => rfl⟩
      · simp; omega
      · have := b h; omega
    · rw [if_neg he]
      exact .inl ⟨_, _, .refl _, fun a _ => ⟨a, fun _ => by omega⟩, .inl fun _ => rfl⟩
  case spSilence =>
    cases h
    by_cases he : s.spRx = [] ∧ s.spOvf = false
    · rw [if_pos he]; exact .inl ⟨_, _, .refl _, fun _ _ => by simp, .inl fun _ => rfl⟩
    · rw [if_neg he]; exact .inl ⟨_, _, spFrameStep_reach _ _ _, fun _ _ => by simp, .inr fun _ h => h⟩
  case spPoll => cases h; exact .inr (poll_reach s).1
  case spRepeatDue => cases h; exact .inr (repeatLast_reach s)

/-- The other rows: a host write, RESET, a template write, or a value returned. -/
theorem exec_otherPort {i : Instr} {s t : State} (h : exec i s = .next t) (ha : portA i = false)
    (hb : portB i = false) :
    (∃ a v, i = .hostWr a v ∧ t = s.setReg a.val v) ∨ (i = .reset ∧ t = resetBlock s) ∨
      (∃ ns id b, i = .hostTmplWr ns id b ∧ b.length = 96 ∧
        t = { s with templates := storeWrite s.templates (templateKey ns id) b }) ∨
      ∃ v, t = s.returns v := by
  cases i <;> first | (simp [portA] at ha; done) | (simp [portB] at hb; done) | skip
  case hostWr a v => cases h; exact .inl ⟨a, v, rfl, rfl⟩
  case reset => cases h; exact .inr (.inl ⟨rfl, rfl⟩)
  case hostTmplWr ns id b =>
    simp only [exec, execHostTmplWr] at h
    split at h
    · cases h; exact .inr (.inr (.inl ⟨ns, id, b, rfl, by assumption, rfl⟩))
    · cases h
  all_goals (cases h; exact .inr (.inr (.inr ⟨_, rfl⟩)))

/-- Tokens run one after the other change the returned value at most, and leave the last one's. -/
theorem runTokens_eq (bytes : List Byte) (s : State) : runTokens bytes s =
    s.withResult (((tokens bytes).getLast?.map fun t => some (tokenValue t)).getD s.result) := by
  unfold runTokens
  induction tokens bytes generalizing s with
  | nil => rfl
  | cons t ts ih =>
    rw [List.foldl_cons, ih, List.getLast?_cons]
    cases ts.getLast? <;> rfl

/-- A delivery that is no row: a link frame is abandoned, or the returned value changes at most. -/
theorem rejectPacket_cases (p : Packet) (e : DecodeError) (s : State) :
    (∃ m, rejectPacket p e s = s.abandonMb p.bytes m) ∨ (∃ m, rejectPacket p e s = s.abandonSp m) ∨
      ∃ r, rejectPacket p e s = s.withResult r := by
  cases e with
  | mbFrame m => exact .inl ⟨m, rfl⟩
  | spFrame m => exact .inr (.inl ⟨m, rfl⟩)
  | notAToken => exact .inr (.inr ⟨_, runTokens_eq _ _⟩)
  | nothingReceived => exact .inr (.inr ⟨s.result, rfl⟩)
  | notAResponse => exact .inr (.inr ⟨s.result, rfl⟩)
  | badOperands => exact .inr (.inr ⟨s.result, rfl⟩)

/-- A step runs the next delivery's row, takes a delivery that is no row, or has nothing to do. -/
theorem step_cases {s t : State} (h : step s = .next t) :
    (s.inbox = [] ∧ t = s) ∨
      ∃ p rest, s.inbox = p :: rest ∧
        ((∃ i, decode p = .ok i ∧ exec i { s with inbox := rest } = .next t) ∨
          (∃ e, t = State.abandonMb { s with inbox := rest } p.bytes e) ∨
          (∃ e, t = State.abandonSp { s with inbox := rest } e) ∨
          ∃ r, t = State.withResult { s with inbox := rest } r) := by
  unfold step stepInbox at h
  split at h
  · cases h; exact .inl ⟨by assumption, rfl⟩
  · rename_i p rest hin
    refine .inr ⟨p, rest, hin, ?_⟩
    unfold stepPacket at h
    split at h
    · rename_i i hd; exact .inl ⟨i, hd, h⟩
    · cases h
      exact .inr (rejectPacket_cases _ _ _)

/-- A template write the decoder gives has a record of 96 bytes. -/
theorem decode_hostTmplWr {p : Packet} {ns : Ns} {id : Fin 42} {bytes : List Byte}
    (h : decode p = .ok (.hostTmplWr ns id bytes)) : bytes.length = 96 := by
  obtain ⟨k, bs⟩ := p
  unfold decode at h
  simp only at h
  split at h
  all_goals try cases h
  case _ =>
    unfold decodeRequest decodeFramed at h
    dsimp only at h
    repeat' split at h
    all_goals cases h
  case _ =>
    unfold decodeResponse decodeFc03Rsp at h
    dsimp only at h
    repeat' split at h
    all_goals cases h
  case _ =>
    unfold decodeToken at h
    split at h
    · rename_i t _
      obtain m | b := t
      · cases m <;> cases h
      · cases h
    · cases h
  case _ =>
    unfold decodeSpFrame at h
    repeat' split at h
    all_goals cases h
  case _ =>
    unfold decodeCommand at h
    repeat' split at h
    all_goals cases h
  case _ => split at h <;> cases h
  case _ a => cases hb : bankAddr a <;> rw [hb] at h <;> cases h
  case _ a _ _ => cases hb : bankAddr a <;> rw [hb] at h <;> cases h
  case _ =>
    unfold decodeTemplateWrite at h
    repeat' split at h
    all_goals cases h
    simpa [recordOk] using ‹recordOk bytes = true›

end Sys2Proof.Machine
end

