-- ==== Sys2Proof/Laws/Fairness.lean ====
section
/-! SUPPORT. What the environment's fairness gives (60_exceptions.md R419): no command stays pending for ever, and no
received byte is held for ever. -/

namespace Sys2Proof.Machine

/-- A taken event without operands is run by the step. -/
theorem Run.exec_of_takes {env : Nat → List Packet} {r : Nat → State} (h : Run env r) {n : Nat} {k : Kind} {i : Instr}
    (ht : takes env r n k) (hd : decode ⟨k, []⟩ = .ok i) :
    ∃ rest, exec i { r n with inbox := rest } = .next (r (n + 1)) := by
  have hn := h n
  obtain ⟨rest, hr⟩ : ∃ rest, (r n).inbox ++ env n = ⟨k, []⟩ :: rest := by
    unfold takes at ht
    cases hl : (r n).inbox ++ env n with
    | nil => rw [hl] at ht; cases ht
    | cons p rest => rw [hl] at ht; cases ht; exact ⟨rest, rfl⟩
  rw [hr] at hn
  refine ⟨rest, ?_⟩
  simpa only [step, stepInbox, stepPacket, hd] using hn

/-- MB_SILENCE leaves link A's buffer empty (43_modbus.md R254). -/
theorem execMbSilence_mbBuf {s t : State} (h : execMbSilence s = .next t) : t.mbBuf = [] := by
  rw [← Host.Outcome.next.inj h]
  split
  · assumption
  · rw [(mbFrameStep_reach s.mbBuf { s with mbBuf := [] }).rest]

/-- SP_SILENCE leaves link B's buffer empty (42_sp_parser.md R200). -/
theorem execSpSilence_spRx {s t : State} (h : execSpSilence s = .next t) : t.spRx = [] := by
  rw [← Host.Outcome.next.inj h]
  split
  · rfl
  · rw [(spFrameStep_reach s.spRx s.spOvf { s with spRx := [], spOvf := false }).rest]

/-- Under the environment's fairness every pending command is consumed. -/
theorem Fair.command_consumed {env : Nat → List Packet} {r : Nat → State} (hf : Fair env r) (h : Run env r) (n : Nat)
    (hn : (r n).cmd ≠ Config.sentinel) : ∃ m > n, (r m).cmd = Config.sentinel := by
  obtain ⟨m, hm, ht⟩ := hf.spPoll n hn
  obtain ⟨rest, he⟩ := h.exec_of_takes ht rfl
  refine ⟨m + 1, by omega, ?_⟩
  rw [← Host.Outcome.next.inj he]
  exact (poll_reach _).2

/-- Under the environment's fairness link A's buffer is emptied again and again. -/
theorem Fair.mbBuf_emptied {env : Nat → List Packet} {r : Nat → State} (hf : Fair env r) (h : Run env r) (n : Nat)
    (hn : (r n).mbBuf ≠ []) : ∃ m > n, (r m).mbBuf = [] := by
  obtain ⟨m, hm, ht⟩ := hf.mbSilence n hn
  obtain ⟨rest, he⟩ := h.exec_of_takes ht rfl
  exact ⟨m + 1, by omega, execMbSilence_mbBuf he⟩

/-- Under the environment's fairness link B's buffer is emptied again and again. -/
theorem Fair.spRx_emptied {env : Nat → List Packet} {r : Nat → State} (hf : Fair env r) (h : Run env r) (n : Nat)
    (hn : (r n).spRx ≠ []) : ∃ m > n, (r m).spRx = [] := by
  obtain ⟨m, hm, ht⟩ := hf.spSilence n hn
  obtain ⟨rest, he⟩ := h.exec_of_takes ht rfl
  exact ⟨m + 1, by omega, execSpSilence_spRx he⟩

end Sys2Proof.Machine
end

