-- ==== Sys2Proof/Laws/PerInstr.lean ====
section
/-! SUPPORT. One lemma per constructor: the packet of a well-formed instruction has a length its encoding space
allows. -/

namespace Sys2Proof.Laws

open Sys2Proof.Machine

/-- The lengths of each kind of packet (30_encoding.md R101 to R121, 42_sp_parser.md R202; log 1). -/
def packetFits (p : Packet) : Prop :=
  match p.kind with
  | .mbRequest => 4 ≤ p.bytes.length ∧ p.bytes.length ≤ 256
  | .mbResponse => 5 ≤ p.bytes.length ∧ p.bytes.length ≤ 255
  | .spToken => 1 ≤ p.bytes.length ∧ p.bytes.length ≤ 2
  | .spFrame => 11 ≤ p.bytes.length ∧ p.bytes.length ≤ 512
  | .spFields | .spRaw | .spUnmatched => True
  | .cmdWord => p.bytes.length = 2
  | .templateRecord => p.bytes.length = 96
  | .stuff _ | .destuff | .crcMb | .crcSp => True
  | .mbRxByte | .spRxByte | .hostRd => p.bytes.length = 1
  | .hostWr => p.bytes.length = 3
  | .hostTmplWr => p.bytes.length = 98
  | .mbSilence | .spSilence | .spPoll | .spRepeatDue | .hostRdActual | .reset => p.bytes = []

namespace EncodeFits

def Statement (i : Instr) : Prop := i.wf = true → packetFits (encode i)

/-- A request frame whose data fits. -/
theorem request (a fc : Byte) (data : List Byte) (h : frameFits data = true) :
    packetFits ⟨.mbRequest, requestFrame a fc data⟩ := by
  simp only [frameFits, decide_eq_true_eq, Config.mbFrameMax] at h
  simp only [packetFits, length_requestFrame]
  omega

theorem mbFc03 (addr : Byte) (data : List Byte) : Statement (.mbFc03 addr data) := request _ _ _
theorem mbFc06 (addr : Byte) (data : List Byte) : Statement (.mbFc06 addr data) := request _ _ _
theorem mbFc10 (addr : Byte) (data : List Byte) : Statement (.mbFc10 addr data) := request _ _ _
theorem mbIllegal (addr fc : Byte) (data : List Byte) : Statement (.mbIllegal addr fc data) := fun h =>
  request _ _ _ (by simp only [Instr.wf, Bool.and_eq_true] at h; exact h.2)
theorem mbExceptionRsp (addr : Byte) (fn : BitVec 7) (code : MbExc) : Statement (.mbExceptionRsp addr fn code) :=
  fun _ => by simp [packetFits, encode, exceptionFrame]
theorem mbFc03Rsp (addr : Byte) (values : List Word) : Statement (.mbFc03Rsp addr values) := fun h => by
  simp only [Instr.wf, Bool.and_eq_true, decide_eq_true_eq, Config.mbMaxReadQty] at h
  simp only [packetFits, encode, fc03Frame, length_withCrcMb, List.length_append, List.length_cons, List.length_nil,
    length_wordsBytes]
  omega
theorem mbFc06Rsp (addr : Byte) (reg val : Word) : Statement (.mbFc06Rsp addr reg val) := fun _ => by
  simp [packetFits, encode, fc06Frame]
theorem mbFc10Rsp (addr : Byte) (start qty : Word) : Statement (.mbFc10Rsp addr start qty) := fun _ => by
  simp [packetFits, encode, fc10Frame]
theorem escSoh : Statement .escSoh := fun _ => by simp [packetFits, encode, tokenWire]
theorem escStx : Statement .escStx := fun _ => by simp [packetFits, encode, tokenWire]
theorem escEtx : Statement .escEtx := fun _ => by simp [packetFits, encode, tokenWire]
theorem escIsi : Statement .escIsi := fun _ => by simp [packetFits, encode, tokenWire]
theorem literal (b : Byte) : Statement (.literal b) := fun _ => by simp [packetFits, encode, tokenWire]
theorem spFrame (dad sad isi fnc : Byte) (ext payload : List Byte) :
    Statement (.spFrame dad sad isi fnc ext payload) := fun h => by
  have h1 := spMinRaw_le_spWire ⟨dad, sad, isi, fnc, ext, payload⟩
  simp only [Instr.wf, spFrameOk, Bool.and_eq_true, decide_eq_true_eq, Config.spFrameMax] at h
  simp only [Config.spMinRaw] at h1
  exact ⟨by simp only [encode]; omega, h.2⟩
theorem spFields (payload : List Byte) : Statement (.spFields payload) := fun _ => trivial
theorem spRaw (payload : List Byte) : Statement (.spRaw payload) := fun _ => trivial
theorem spUnmatched (payload : List Byte) : Statement (.spUnmatched payload) := fun _ => trivial
theorem cmdSentinel : Statement .cmdSentinel := fun _ => rfl
theorem cmdIssueRaw (tid : Byte) : Statement (.cmdIssueRaw tid) := fun _ => rfl
theorem cmdIssue (mode tid : Byte) : Statement (.cmdIssue mode tid) := fun _ => rfl
theorem templateRecord (bytes : List Byte) : Statement (.templateRecord bytes) := fun h => by
  simpa [Instr.wf, recordOk, packetFits, encode] using h
theorem stuff (cap : Nat) (x : List Byte) : Statement (.stuff cap x) := fun _ => trivial
theorem destuff (buf : List Byte) : Statement (.destuff buf) := fun _ => trivial
theorem crcMb (x : List Byte) : Statement (.crcMb x) := fun _ => trivial
theorem crcSp (x : List Byte) : Statement (.crcSp x) := fun _ => trivial
theorem mbRxByte (b : Byte) : Statement (.mbRxByte b) := fun _ => rfl
theorem mbSilence : Statement .mbSilence := fun _ => rfl
theorem spRxByte (b : Byte) : Statement (.spRxByte b) := fun _ => rfl
theorem spSilence : Statement .spSilence := fun _ => rfl
theorem spPoll : Statement .spPoll := fun _ => rfl
theorem spRepeatDue : Statement .spRepeatDue := fun _ => rfl
theorem hostRd (a : Fin 224) : Statement (.hostRd a) := fun _ => rfl
theorem hostWr (a : Fin 224) (v : Word) : Statement (.hostWr a v) := fun _ => rfl
theorem hostTmplWr (ns : Ns) (id : Fin 42) (bytes : List Byte) : Statement (.hostTmplWr ns id bytes) := fun h => by
  simpa [Instr.wf, recordOk, packetFits, encode, Config.recordSize] using h
theorem hostRdActual : Statement .hostRdActual := fun _ => rfl
theorem reset : Statement .reset := fun _ => rfl

end EncodeFits

end Sys2Proof.Laws
end

