-- ==== Sys2Proof/Laws/Templates.lean ====
section
/-! SUPPORT. The Template Store: read after write, and the canonical form. -/

namespace Sys2Proof.Machine

theorem lookup_storeInsert_self (k : Nat) (r : Record) (m : TemplateStore) :
    (storeInsert k r m).lookup k = some r := by
  induction m with
  | nil => simp [storeInsert]
  | cons e m ih =>
    obtain ⟨k', r'⟩ := e
    unfold storeInsert
    split
    · simp
    · split
      · simp
      · rw [List.lookup_cons, ih]
        simp [show (k == k') = false by simpa]

theorem lookup_storeInsert_ne (k j : Nat) (r : Record) (m : TemplateStore) (h : j ≠ k) :
    (storeInsert k r m).lookup j = m.lookup j := by
  have hb : (j == k) = false := by simpa
  induction m with
  | nil => simp [storeInsert, List.lookup_cons, hb]
  | cons e m ih =>
    obtain ⟨k', r'⟩ := e
    unfold storeInsert
    split
    · rw [List.lookup_cons, hb]
    · split
      · subst_vars; rw [List.lookup_cons, hb, List.lookup_cons, hb]
      · rw [List.lookup_cons, ih, List.lookup_cons]

theorem lookup_filter_self (k : Nat) (m : TemplateStore) : (m.filter fun e => e.1 ≠ k).lookup k = none := by
  rw [List.lookup_eq_none_iff]
  intro e he
  have := (List.mem_filter.mp he).2
  simp at this ⊢
  exact fun h => this h.symm

theorem lookup_filter_ne (k j : Nat) (m : TemplateStore) (h : j ≠ k) :
    (m.filter fun e => e.1 ≠ k).lookup j = m.lookup j := by
  induction m with
  | nil => rfl
  | cons e m ih =>
    by_cases he : e.1 = k
    · rw [List.filter_cons_of_neg (by simpa), ih, List.lookup_cons]
      simp [show (j == e.1) = false by simpa [he]]
    · rw [List.filter_cons_of_pos (by simpa), List.lookup_cons, List.lookup_cons, ih]

/-- A record is read back as it was written. -/
@[simp] theorem storeRead_storeWrite_self (m : TemplateStore) (k : Nat) (r : Record) :
    storeRead (storeWrite m k r) k = r := by
  unfold storeRead storeWrite
  split
  · subst_vars; rw [lookup_filter_self]; rfl
  · rw [lookup_storeInsert_self]; rfl

/-- Writing one record leaves every other alone. -/
@[simp] theorem storeRead_storeWrite_ne (m : TemplateStore) (k j : Nat) (r : Record) (h : j ≠ k) :
    storeRead (storeWrite m k r) j = storeRead m j := by
  unfold storeRead storeWrite
  split
  · rw [lookup_filter_ne _ _ _ h]
  · rw [lookup_storeInsert_ne _ _ _ _ h]

theorem mem_storeInsert (k : Nat) (r : Record) (m : TemplateStore) (e : Nat × Record)
    (h : e ∈ storeInsert k r m) : e = (k, r) ∨ e ∈ m := by
  induction m with
  | nil => simpa [storeInsert] using h
  | cons d m ih =>
    obtain ⟨k', r'⟩ := d
    unfold storeInsert at h
    split at h
    · simpa using h
    · split at h
      · simp only [List.mem_cons] at h ⊢; tauto
      · simp only [List.mem_cons] at h ⊢
        obtain h | h := h
        · tauto
        · have := ih h; tauto

theorem storeInsert_rising (k : Nat) (r : Record) (m : TemplateStore)
    (h : (m.map Prod.fst).Pairwise (· < ·)) : ((storeInsert k r m).map Prod.fst).Pairwise (· < ·) := by
  induction m with
  | nil => simp [storeInsert]
  | cons d m ih =>
    obtain ⟨k', r'⟩ := d
    rw [List.map_cons, List.pairwise_cons] at h
    unfold storeInsert
    split
    · rename_i hk
      simp only [List.map_cons, List.pairwise_cons, List.mem_cons, forall_eq_or_imp]
      exact ⟨⟨hk, fun x hx => lt_trans hk (h.1 x hx)⟩, h⟩
    · split
      · subst_vars; simpa using h
      · rename_i h1 h2
        rw [List.map_cons, List.pairwise_cons]
        refine ⟨fun x hx => ?_, ih h.2⟩
        obtain ⟨e, he, rfl⟩ := List.mem_map.mp hx
        obtain rfl | he := mem_storeInsert _ _ _ _ he
        · show k' < k
          omega
        · exact h.1 _ (List.mem_map_of_mem he)

/-- Every write keeps the canonical form. -/
theorem storeWrite_wf (m : TemplateStore) (k : Nat) (r : Record) (hm : m.wf) (hk : k < 84)
    (hr : r.length = Config.recordSize) : (storeWrite m k r).wf := by
  unfold storeWrite
  split
  · refine ⟨?_, fun e he => hm.2 e (List.mem_filter.mp he).1⟩
    exact hm.1.sublist (List.filter_sublist.map _)
  · refine ⟨storeInsert_rising _ _ _ hm.1, fun e he => ?_⟩
    obtain rfl | he := mem_storeInsert _ _ _ _ he
    · exact ⟨hk, hr, by assumption⟩
    · exact hm.2 e he

theorem emptyStore_wf : TemplateStore.wf [] := by simp [TemplateStore.wf]

theorem templateKey_lt (ns : Ns) (id : Fin 42) : templateKey ns id < 84 := by
  unfold templateKey; split <;> omega

/-- Every record has a key of its own. -/
theorem templateKey_inj (ns ns' : Ns) (id id' : Fin 42) (h : templateKey ns id = templateKey ns' id') :
    ns = ns' ∧ id = id' := by
  cases ns <;> cases ns' <;> simp only [templateKey] at h <;> first | exact ⟨rfl, Fin.ext (by omega)⟩ | omega

end Sys2Proof.Machine
end

