-- ==== Sys2Proof/Tests/Slice0.lean ====
section
/-! SUPPORT. The model's own tests: decoding, ill-formed terms, single steps, and a witness for every statement that
has hypotheses. Expected values are the vectors of spec/95_test_vectors.md (named in each comment) or are worked
out by hand from the rule named. -/

namespace Sys2Proof.Tests

set_option Elab.async false

open Sys2Proof Sys2Proof.Machine

/-! ## The start states of spec/95_test_vectors.md -/

/-- State Z under configuration EX. The template reads to come succeed. -/
def z : State :=
  { State.reset with
    cfg := Config.legalParams
    bank := bankWrite (Vector.replicate 224 0#16) 0 0xFFFF#16
    storeAnswers := [false, false] }

/-- Z with a register set. -/
def zReg (a : Nat) (v : Word) : State := z.setReg a v

/-- A template record: its bytes, then zeros. -/
def rec96 (bytes : List Byte) : List Byte := (bytes ++ List.replicate 96 0#8).take 96

/-- REQ record 5 of the vectors: LEN 04, payload 1D 02 33 03. -/
def tmpl5 : List Byte := rec96 [0x04, 0x1D, 0x02, 0x33, 0x03]

/-- Z with a REQ record and a command word in CMD_REG. -/
def zTmpl (id : Fin 42) (record : List Byte) (c : Word) : State :=
  { (zReg 0 c) with templates := storeWrite [] (templateKey .req id) record }

/-- Z after the issue of a command whose request had function byte `fnc`. -/
def zIssued (c : Word) (fnc : Byte) : State :=
  { z with spActive := some c, spLast := some c, spReqFnc := some fnc }

/-- Z with bytes received on link A. -/
def zA (f : List Byte) : State := { z with mbBuf := f }

/-- Z + issued 5 with bytes received on link B. -/
def zB (f : List Byte) : State := { zIssued 0x0005 0x1D with spRx := f }

/-- Something of the next state; `none` where the step stops. -/
def after {α : Type} (o : Host.Outcome State Fault Refusal) (f : State → α) : Option α :=
  match o with
  | .next s => some (f s)
  | .fault _ => none
  | .refused _ => none

/-- What the decoder reads. -/
def dec (k : Kind) (bytes : List Byte) : Option Instr := (decode ⟨k, bytes⟩).toOption

/-! ## Decoding: every row, from bytes written out from its encoding -/

/-- Vector L1-3. -/
theorem test_decode_mbFc03 :
    dec .mbRequest [0x01, 0x03, 0x00, 0x00, 0x00, 0x0A, 0xC5, 0xCD] = some (.mbFc03 0x01 [0x00, 0x00, 0x00, 0x0A]) := by
  decide +kernel
/-- Vector M10. -/
theorem test_decode_mbFc06 :
    dec .mbRequest [0x01, 0x06, 0x00, 0x00, 0x00, 0x05, 0x49, 0xC9] = some (.mbFc06 0x01 [0x00, 0x00, 0x00, 0x05]) := by
  decide +kernel
/-- Vector M17. -/
theorem test_decode_mbFc10 :
    dec .mbRequest [0x01, 0x10, 0x00, 0x7F, 0x00, 0x02, 0x04, 0x11, 0x22, 0x33, 0x44, 0x05, 0x3E] =
      some (.mbFc10 0x01 [0x00, 0x7F, 0x00, 0x02, 0x04, 0x11, 0x22, 0x33, 0x44]) := by
  decide +kernel
/-- Vector M28: bit 7 of the function code is not dropped. -/
theorem test_decode_mbIllegal :
    dec .mbRequest [0x01, 0x83, 0x00, 0x00, 0x00, 0x01, 0x85, 0xD4] =
      some (.mbIllegal 0x01 0x83 [0x00, 0x00, 0x00, 0x01]) := by
  decide +kernel
/-- The response of vector M4. -/
theorem test_decode_mbExceptionRsp :
    dec .mbResponse [0x01, 0x83, 0x02, 0xC0, 0xF1] = some (.mbExceptionRsp 0x01 0x03 .illegalAddress) := by
  decide +kernel
/-- The response of vector M2. -/
theorem test_decode_mbFc03Rsp :
    dec .mbResponse [0x01, 0x03, 0x06, 0xA0, 0x20, 0xA0, 0x21, 0xA0, 0x22, 0x32, 0x01] =
      some (.mbFc03Rsp 0x01 [0xA020, 0xA021, 0xA022]) := by
  decide +kernel
/-- The response of vector M11. -/
theorem test_decode_mbFc06Rsp :
    dec .mbResponse [0x01, 0x06, 0x00, 0x10, 0x00, 0x2A, 0x09, 0xD0] = some (.mbFc06Rsp 0x01 0x0010 0x002A) := by
  decide +kernel
/-- The response of vector M17. -/
theorem test_decode_mbFc10Rsp :
    dec .mbResponse [0x01, 0x10, 0x00, 0x7F, 0x00, 0x02, 0x70, 0x10] = some (.mbFc10Rsp 0x01 0x007F 0x0002) := by
  decide +kernel
/-- R114: the five token rows. -/
theorem test_decode_tokens :
    dec .spToken [0x10, 0x01] = some .escSoh ∧ dec .spToken [0x10, 0x02] = some .escStx ∧
      dec .spToken [0x10, 0x03] = some .escEtx ∧ dec .spToken [0x10, 0x1F] = some .escIsi ∧
      dec .spToken [0x03] = some (.literal 0x03) := by
  decide +kernel
/-- Vector S25: a header extension byte. -/
theorem test_decode_spFrame :
    dec .spFrame [0xFF, 0xFF, 0x10, 0x01, 0x40, 0x00, 0x10, 0x1F, 0x14, 0xEE, 0x10, 0x02, 0x41, 0x10, 0x03, 0x09, 0x66] =
      some (.spFrame 0x40 0x00 0x1F 0x14 [0xEE] [0x41]) := by
  decide +kernel
/-- R119: the three command rows, MODE high. -/
theorem test_decode_cmdWord :
    dec .cmdWord [0xFF, 0xFF] = some .cmdSentinel ∧ dec .cmdWord [0xFF, 0x07] = some (.cmdIssueRaw 0x07) ∧
      dec .cmdWord [0x12, 0xFF] = some (.cmdIssue 0x12 0xFF) := by
  decide +kernel
/-- R121. -/
theorem test_decode_templateRecord : dec .templateRecord tmpl5 = some (.templateRecord tmpl5) := by decide +kernel
/-- The routes, the unit operations, the events and the host steps (R117, R120; log 1). -/
theorem test_decode_named :
    dec .spFields [0x41] = some (.spFields [0x41]) ∧ dec .spRaw [0x41] = some (.spRaw [0x41]) ∧
      dec .spUnmatched [] = some (.spUnmatched []) ∧ dec (.stuff 65536) [0x01] = some (.stuff 65536 [0x01]) ∧
      dec .destuff [0x10] = some (.destuff [0x10]) ∧ dec .crcMb [0x01] = some (.crcMb [0x01]) ∧
      dec .crcSp [0x01] = some (.crcSp [0x01]) ∧ dec .mbRxByte [0x41] = some (.mbRxByte 0x41) ∧
      dec .mbSilence [] = some .mbSilence ∧ dec .spRxByte [0x41] = some (.spRxByte 0x41) ∧
      dec .spSilence [] = some .spSilence ∧ dec .spPoll [] = some .spPoll ∧
      dec .spRepeatDue [] = some .spRepeatDue ∧ dec .hostRd [0xDF] = some (.hostRd 0xDF) ∧
      dec .hostWr [0x20, 0x12, 0x34] = some (.hostWr 0x20 0x1234) ∧
      dec .hostTmplWr (0x01 :: 0x29 :: tmpl5) = some (.hostTmplWr .rsp 41 tmpl5) ∧
      dec .hostRdActual [] = some .hostRdActual ∧ dec .reset [] = some .reset := by
  decide +kernel
/-- What is no row is refused by name: swapped CRC bytes (M33), a frame too short (M30), nothing received,
257 bytes, which leave nothing (R252, M26), a failed link-B CRC (S6), id 42, register 0xE0, a record of 95 bytes. -/
theorem test_decode_rejects :
    decode ⟨.mbRequest, [0x01, 0x03, 0x00, 0x00, 0x00, 0x0A, 0xCD, 0xC5]⟩ = .error (.mbFrame .badCrc) ∧
      decode ⟨.mbRequest, [0x01, 0x03, 0x00]⟩ = .error (.mbFrame .tooShort) ∧
      decode ⟨.mbRequest, []⟩ = .error .nothingReceived ∧ decode ⟨.spFrame, []⟩ = .error .nothingReceived ∧
      decode ⟨.mbRequest, List.replicate 257 0#8⟩ = .error .nothingReceived ∧
      decode ⟨.mbResponse, [0x01, 0x83, 0x04, 0x40, 0xF3]⟩ = .error .notAResponse ∧
      decode ⟨.spToken, [0x41, 0x42]⟩ = .error .notAToken ∧
      decode ⟨.spFrame, [0xFF, 0xFF, 0x10, 0x01, 0x40, 0x00, 0x10, 0x1F, 0x14, 0x10, 0x02, 0x41, 0x10, 0x03, 0x4A, 0x35]⟩ =
        .error (.spFrame .badCrc) ∧
      decode ⟨.hostTmplWr, 0x00 :: 0x2A :: tmpl5⟩ = .error .badOperands ∧
      decode ⟨.hostRd, [0xE0]⟩ = .error .badOperands ∧
      decode ⟨.templateRecord, List.replicate 95 0#8⟩ = .error .badOperands := by
  decide +kernel
/-- The table's words: function codes (R110) and two-byte rows (R114, R119). -/
theorem test_decodeTableWord :
    decodeTableWord 8 0x03 = some (.mbFc03 0x00 [0, 0, 0, 0]) ∧
      decodeTableWord 8 0x06 = some (.mbFc06 0x00 [0, 0, 0, 0]) ∧
      decodeTableWord 8 0x10 = some (.mbFc10 0x00 [0, 0, 0, 0, 0]) ∧
      decodeTableWord 8 0x83 = some (.mbIllegal 0x00 0x83 [0, 0, 0, 0]) ∧
      decodeTableWord 16 0x1001 = some .escSoh ∧ decodeTableWord 16 0x1002 = some .escStx ∧
      decodeTableWord 16 0x1003 = some .escEtx ∧ decodeTableWord 16 0x101F = some .escIsi ∧
      decodeTableWord 16 0xFFFF = some .cmdSentinel ∧ decodeTableWord 16 0xFF05 = some (.cmdIssueRaw 0x05) ∧
      decodeTableWord 16 0x0005 = some (.cmdIssue 0x00 0x05) := by
  decide +kernel
/-- A table word placed as the next delivery is run: here the token's logical byte is returned. -/
theorem test_withFetchWord : after (step (State.reset.withFetchWord 16 0x1002)) State.result =
    some (some (.token 0x02 true false)) := by
  decide +kernel

/-! ## Ill-formed terms -/

/-- A frame that does not fit the receive buffer (R252). -/
theorem test_wf_frameFits : (Instr.mbFc03 0x01 (List.replicate 252 0#8)).wf = true ∧
    (Instr.mbFc03 0x01 (List.replicate 253 0#8)).wf = false ∧ (Instr.mbFc06 0x01 (List.replicate 253 0#8)).wf = false ∧
    (Instr.mbFc10 0x01 (List.replicate 253 0#8)).wf = false ∧
    (Instr.mbIllegal 0x01 0x04 (List.replicate 253 0#8)).wf = false := by decide +kernel
/-- A function code that has a row of its own (R111). -/
theorem test_wf_mbIllegal : (Instr.mbIllegal 0x01 0x03 []).wf = false ∧ (Instr.mbIllegal 0x01 0x06 []).wf = false ∧
    (Instr.mbIllegal 0x01 0x10 []).wf = false := by decide
/-- A 0x03 response with no register or with 126 (R105, D13). -/
theorem test_wf_mbFc03Rsp : (Instr.mbFc03Rsp 0x01 []).wf = false ∧
    (Instr.mbFc03Rsp 0x01 (List.replicate 125 0#16)).wf = true ∧
    (Instr.mbFc03Rsp 0x01 (List.replicate 126 0#16)).wf = false := by decide +kernel
/-- A DLE before an STX or ETX, in the header or in the payload (R465). -/
theorem test_wf_textReadable : (Instr.spFrame 0x10 0x02 0x1F 0x14 [] []).wf = false ∧
    (Instr.spFrame 0x40 0x00 0x1F 0x14 [] [0x10, 0x03]).wf = false := by decide +kernel
/-- A CRC field that is an escape pair (R466, vector S21). -/
theorem test_wf_crcSpReadable : (Instr.spFrame 0x40 0x00 0x1F 0x14 [] [0x5E, 0x64]).wf = false := by decide +kernel
/-- A frame longer than the receive buffer: 14 bytes around the payload, two for each escaped byte (R203). -/
theorem test_wf_spFrameMax :
    (spWire ⟨0x40, 0x00, 0x00, 0x14, [], List.replicate 249 0x01#8⟩).length = 512 ∧
      (Instr.spFrame 0x40 0x00 0x00 0x14 [] (List.replicate 250 0x01#8)).wf = false := by
  have h : (spWire ⟨0x40, 0x00, 0x00, 0x14, [], List.replicate 250 0x01#8⟩).length = 514 := by decide +kernel
  refine ⟨by decide +kernel, ?_⟩
  rw [Instr.wf, spFrameOk, h]
  exact Bool.and_false _
/-- The sentinel is no issue, and MODE 0xFF is the raw row (R119). -/
theorem test_wf_commands : (Instr.cmdIssueRaw 0xFF).wf = false ∧ (Instr.cmdIssue 0xFF 0x05).wf = false := by decide
/-- A record that is not 96 bytes (R121, R61). -/
theorem test_wf_records : (Instr.templateRecord (List.replicate 95 0#8)).wf = false ∧
    (Instr.hostTmplWr .req 0 (List.replicate 97 0#8)).wf = false := by decide +kernel

/-! ## Single steps, link A -/

/-- Vector M2's response, from registers the host wrote. -/
theorem test_mbFc03_reads :
    after (exec (.mbFc03 0x01 [0x00, 0x20, 0x00, 0x03])
      (((zReg 0x20 0xA020).setReg 0x21 0xA021).setReg 0x22 0xA022)) State.txA =
      some [[0x01, 0x03, 0x06, 0xA0, 0x20, 0xA0, 0x21, 0xA0, 0x22, 0x32, 0x01]] := by decide +kernel
/-- Vector M7b: the range check comes before the quantity check. -/
theorem test_mbFc03_range : after (exec (.mbFc03 0x01 [0x00, 0xE0, 0x00, 0x7E]) z) State.txA =
    some [[0x01, 0x83, 0x02, 0xC0, 0xF1]] := by decide +kernel
/-- Vector M11. -/
theorem test_mbFc06_persist :
    after (exec (.mbFc06 0x01 [0x00, 0x10, 0x00, 0x2A]) z) (fun s => (s.reg 0x10, s.events, s.txA)) =
      some (0x002A, [.persist 0 0x002A], [[0x01, 0x06, 0x00, 0x10, 0x00, 0x2A, 0x09, 0xD0]]) := by decide +kernel
/-- Vector M13: the last READW register is forbidden. -/
theorem test_mbFc06_readw :
    after (exec (.mbFc06 0x01 [0x00, 0x7F, 0x00, 0x01]) z) (fun s => (s.reg 0x7F, s.txA)) =
      some (0x0000, [[0x01, 0x86, 0x02, 0xC3, 0xA1]]) := by decide +kernel
/-- Vector M17. -/
theorem test_mbFc10_writes :
    after (exec (.mbFc10 0x01 [0x00, 0x7F, 0x00, 0x02, 0x04, 0x11, 0x22, 0x33, 0x44]) z)
      (fun s => (memRead s.bank 0x7E 4, s.txA)) =
      some ([0x0000, 0x1122, 0x3344, 0x0000], [[0x01, 0x10, 0x00, 0x7F, 0x00, 0x02, 0x70, 0x10]]) := by decide +kernel
/-- Vector M20: the byte count check comes before the permission check. -/
theorem test_mbFc10_order :
    after (exec (.mbFc10 0x01 [0x00, 0x10, 0x00, 0x02, 0x03, 0x11, 0x22, 0x33]) z) State.txA =
      some [[0x01, 0x90, 0x03, 0x0C, 0x01]] := by decide +kernel
/-- Vector M28: bit 7 already set stays set. -/
theorem test_mbIllegal : after (exec (.mbIllegal 0x01 0x83 [0x00, 0x00, 0x00, 0x01]) z) State.txA =
    some [[0x01, 0x83, 0x01, 0x80, 0xF0]] := by decide +kernel
/-- Vector M32: address 0 is no broadcast. -/
theorem test_mbFc06_broadcast :
    after (exec (.mbFc06 0x00 [0x00, 0x80, 0x00, 0x01]) z) (fun s => (s.reg 0x80, s.txA)) = some (0x0000, []) := by
  decide +kernel
/-- The responses of vectors M4, M1, M10 and M25. -/
theorem test_mb_responses :
    after (exec (.mbExceptionRsp 0x01 0x03 .illegalAddress) z) State.txA = some [[0x01, 0x83, 0x02, 0xC0, 0xF1]] ∧
      after (exec (.mbFc03Rsp 0x01 [0xFFFF]) z) State.txA = some [[0x01, 0x03, 0x02, 0xFF, 0xFF, 0xB9, 0xF4]] ∧
      after (exec (.mbFc06Rsp 0x01 0x0000 0x0005) z) State.txA =
        some [[0x01, 0x06, 0x00, 0x00, 0x00, 0x05, 0x49, 0xC9]] ∧
      after (exec (.mbFc10Rsp 0x01 0x0020 0x007B) z) State.txA =
        some [[0x01, 0x10, 0x00, 0x20, 0x00, 0x7B, 0x81, 0xE0]] := by decide +kernel
/-- Byte 257 empties the buffer (R252, vector M26). -/
theorem test_mbRxByte_overflow :
    after (exec (.mbRxByte 0x44) (zA (List.replicate 255 0#8))) (fun s => s.mbBuf.length) = some 256 ∧
      after (exec (.mbRxByte 0x44) (zA (List.replicate 256 0#8))) State.mbBuf = some [] := by decide +kernel
/-- Vector M1. -/
theorem test_mbSilence_answers :
    after (exec .mbSilence (zA [0x01, 0x03, 0x00, 0x00, 0x00, 0x01, 0x84, 0x0A])) (fun s => (s.mbBuf, s.txA)) =
      some ([], [[0x01, 0x03, 0x02, 0xFF, 0xFF, 0xB9, 0xF4]]) := by decide +kernel
/-- Vector M33: CRC bytes in the wrong order are a drop. -/
theorem test_mbSilence_drops :
    after (exec .mbSilence (zA [0x01, 0x03, 0x00, 0x00, 0x00, 0x0A, 0xCD, 0xC5])) (fun s => (s.mbBuf, s.txA)) =
      some ([], []) := by decide +kernel

/-! ## Single steps, link B -/

/-- R114, R115. -/
theorem test_tokens :
    after (exec .escSoh z) State.result = some (some (.token 0x01 false false)) ∧
      after (exec .escStx z) State.result = some (some (.token 0x02 true false)) ∧
      after (exec .escEtx z) State.result = some (some (.token 0x03 false true)) ∧
      after (exec .escIsi z) State.result = some (some (.token 0x1F false false)) ∧
      after (exec (.literal 0x02) z) State.result = some (some (.token 0x02 false false)) := by decide +kernel
/-- Vector S19: field mode wins over raw. -/
theorem test_spFrame_fields :
    after (exec (.spFrame 0x40 0x00 0x1F 0x14 [] [0x41, 0x42]) (zIssued 0xFF05 0x1D))
      (fun s => (s.reg 0x20, s.reg 0x21, s.reg 0x22, s.events)) =
      some (0x0001, 0x0002, 0x4142, [.tagExtract 0x05 [0x41, 0x42]]) := by decide +kernel
/-- Vector S16: an unmatched frame changes nothing. -/
theorem test_spFrame_unmatched :
    after (exec (.spFrame 0x40 0x00 0x1F 0x99 [] [0x41]) (zIssued 0x0005 0x1D)) (fun s => (s.bank, s.events)) =
      some (z.bank, []) := by decide +kernel
/-- Vector S15: the fourth record does not fit, and the fifth is not tried. -/
theorem test_spFields_overflow :
    after (exec (.spFields ((List.replicate 4 (List.replicate 60 0x61#8 ++ [0x0C#8])).flatten ++ [0x62, 0x0C]))
      (((zIssued 0x0005 0x1D).setReg 0x7E 0x7777).setReg 0x7F 0x8888))
      (fun s => (s.reg 0x20, s.reg 0x5F, s.reg 0x7D, s.reg 0x7E, s.reg 0x7F)) =
      some (0x0003, 0x003C, 0x6161, 0x7777, 0x8888) := by decide +kernel
/-- Vector S12: one empty record. -/
theorem test_spFields_emptyRecord :
    after (exec (.spFields [0x0C]) (zIssued 0x0005 0x1D)) (fun s => (s.reg 0x20, s.reg 0x21, s.events)) =
      some (0x0001, 0x0000, [.tagExtract 0x05 [0x0C]]) := by decide +kernel
/-- Vector S18: the odd last byte goes low. -/
theorem test_spRaw_odd :
    after (exec (.spRaw [0xA1, 0xA2, 0xA3, 0xA4, 0xA5]) (zIssued 0xFF07 0x2A))
      (fun s => (s.reg 0x20, s.reg 0x21, s.reg 0x22, s.reg 0x23, s.events)) =
      some (0xA1A2, 0xA3A4, 0x00A5, 0x0000, []) := by decide +kernel
/-- Vector L1-8: a 200-byte payload is cut at 192 bytes. -/
theorem test_spRaw_long :
    after (exec (.spRaw ((List.range 200).map (BitVec.ofNat 8))) (zIssued 0xFF07 0x2A))
      (fun s => (s.reg 0x20, s.reg 0x21, s.reg 0x7F, s.reg 0x80)) = some (0x0001, 0x0203, 0xBEBF, 0x0000) := by
  decide +kernel
/-- R214. -/
theorem test_spUnmatched : after (exec (.spUnmatched [0x41]) (zIssued 0x0005 0x1D)) (fun s => (s.bank, s.events)) =
    some (z.bank, []) := by decide +kernel
/-- Byte 513 is discarded and sets the flag (R300, vector S2). -/
theorem test_spRxByte_full :
    after (exec (.spRxByte 0x41) (zB (List.replicate 511 0x41#8))) (fun s => (s.spRx.length, s.spOvf)) =
        some (512, false) ∧
      after (exec (.spRxByte 0x41) (zB (List.replicate 512 0x41#8))) (fun s => (s.spRx.length, s.spOvf)) =
        some (512, true) := by decide +kernel
/-- Vector S22: one sync byte, field mode. -/
theorem test_spSilence_accepts :
    after (exec .spSilence (zB [0xFF, 0x10, 0x01, 0x40, 0x00, 0x10, 0x1F, 0x14, 0x10, 0x02, 0x41, 0x10, 0x03, 0x4A, 0x34]))
      (fun s => (s.reg 0x20, s.reg 0x21, s.reg 0x22, s.events, s.spRx)) =
      some (0x0001, 0x0001, 0x0041, [.tagExtract 0x05 [0x41]], []) := by decide +kernel
/-- Vector S21: a CRC field that is an escape pair. -/
theorem test_spSilence_escapePair :
    after (exec .spSilence
      (zB [0xFF, 0xFF, 0x10, 0x01, 0x40, 0x00, 0x10, 0x1F, 0x14, 0x10, 0x02, 0x5E, 0x64, 0x10, 0x03, 0x10, 0x02]))
      (fun s => (s.reg 0x01, s.events)) = some (0xE004, []) := by decide +kernel
/-- R301. -/
theorem test_cmdSentinel : after (exec .cmdSentinel (zReg 0 5)) (fun s => (s.cmd, s.txB)) = some (0x0005, []) := by
  decide +kernel
/-- The frame of P3 step 3, and the mode kept with the command. -/
theorem test_cmdIssueRaw :
    after (exec (.cmdIssueRaw 0x07) (zTmpl 7 (rec96 [0x04, 0x2A, 0x02, 0x39, 0x03]) 0xFF07))
      (fun s => (s.txB, s.spActive, s.spReqFnc)) =
      some ([[0xFF, 0xFF, 0x10, 0x01, 0x00, 0x40, 0x10, 0x1F, 0x2A, 0x10, 0x02, 0x39, 0x10, 0x03, 0xF2, 0x8B]],
        some 0xFF07, some 0x2A) := by decide +kernel
/-- The frame of vector T12: a DLE is not escaped. -/
theorem test_cmdIssue_dle :
    after (exec (.cmdIssue 0x00 0x09) (zTmpl 9 (rec96 [0x05, 0x1D, 0x10, 0x01, 0x02, 0x03]) 0x0009)) State.txB =
      some [[0xFF, 0xFF, 0x10, 0x01, 0x00, 0x40, 0x10, 0x1F, 0x1D, 0x10, 0x10, 0x01, 0x10, 0x02, 0x10, 0x03, 0xB6,
        0xFE]] := by decide +kernel
/-- Vector T4: an absent record sends nothing. -/
theorem test_cmdIssue_absent : after (exec (.cmdIssue 0x00 0x03) z) (fun s => (s.txB, s.spActive, s.bank)) =
    some ([], none, z.bank) := by decide +kernel
/-- Vector T2. -/
theorem test_spPoll_issues :
    after (exec .spPoll (zTmpl 5 tmpl5 0x0005)) (fun s => (s.txB, s.cmd, s.spActive, s.spLast, s.spReqFnc)) =
      some ([[0xFF, 0xFF, 0x10, 0x01, 0x00, 0x40, 0x10, 0x1F, 0x1D, 0x10, 0x02, 0x33, 0x10, 0x03, 0x60, 0x84]],
        0xFFFF, some 0x0005, some 0x0005, some 0x1D) := by decide +kernel
/-- Vector T10: a request that does not fit. -/
theorem test_spPoll_capacity :
    after (exec .spPoll { zTmpl 5 tmpl5 0x0005 with cfg := { Config.legalParams with spTxMax := 10 } })
      (fun s => (s.txB, s.reg 0x01, s.cmd, s.spActive)) = some ([], 0xE003, 0xFFFF, none) := by decide +kernel
/-- Vector T7: the same frame again, CMD_REG as it was. -/
theorem test_spRepeatDue_issues :
    after (exec .spRepeatDue { zTmpl 5 tmpl5 0xFFFF with spLast := some 0x0005, spActive := some 0x0005 })
      (fun s => (s.txB, s.cmd)) =
      some ([[0xFF, 0xFF, 0x10, 0x01, 0x00, 0x40, 0x10, 0x1F, 0x1D, 0x10, 0x02, 0x33, 0x10, 0x03, 0x60, 0x84]],
        0xFFFF) := by decide +kernel
/-- Vector T8: a command is pending. -/
theorem test_spRepeatDue_pending :
    after (exec .spRepeatDue { zTmpl 5 tmpl5 0x0009 with spLast := some 0x0005 }) (fun s => (s.txB, s.cmd)) =
      some ([], 0x0009) := by decide +kernel

/-! ## Single steps, units and host -/

/-- R121: LEN 0x5F is a payload, 0x60 a storage error, 0xFF absent. -/
theorem test_templateRecord :
    after (exec (.templateRecord tmpl5) z) State.result = some (some (.record (.payload [0x1D, 0x02, 0x33, 0x03]))) ∧
      after (exec (.templateRecord (rec96 [0x60])) z) State.result = some (some (.record .badLength)) ∧
      after (exec (.templateRecord (rec96 [0xFF])) z) State.result = some (some (.record .absent)) := by
  decide +kernel
/-- Vectors C6, C3, C4. -/
theorem test_stuff :
    after (exec (.stuff 16 [0x41, 0x02, 0x10, 0x1F]) z) State.result =
        some (some (.stuffed (some [0x41, 0x10, 0x02, 0x10, 0x10, 0x1F]))) ∧
      after (exec (.stuff 2 [0x01]) z) State.result = some (some (.stuffed (some [0x10, 0x01]))) ∧
      after (exec (.stuff 1 [0x01]) z) State.result = some (some (.stuffed none)) := by decide +kernel
/-- Vectors C13, C15. -/
theorem test_destuff :
    after (exec (.destuff [0x10, 0x10, 0x02, 0x10, 0x03]) z) State.result =
        some (some (.destuffed ⟨[0x10, 0x02, 0x03], some (1, 2)⟩)) ∧
      after (exec (.destuff [0x10, 0x03, 0x10, 0x02]) z) State.result =
        some (some (.destuffed ⟨[0x03, 0x02], none⟩)) := by decide +kernel
/-- Vectors K6. -/
theorem test_crc :
    after (exec (.crcMb [0x31, 0x32, 0x33, 0x34, 0x35, 0x36, 0x37, 0x38, 0x39]) z) State.result =
        some (some (.word 0x4B37)) ∧
      after (exec (.crcSp [0x31, 0x32, 0x33, 0x34, 0x35, 0x36, 0x37, 0x38, 0x39]) z) State.result =
        some (some (.word 0x31C3)) := by decide +kernel
/-- R61. -/
theorem test_host_bank :
    after (exec (.hostRd 0x20) (zReg 0x20 0x1234)) State.result = some (some (.word 0x1234)) ∧
      after (exec (.hostWr 0x20 0x1234) z) (fun s => (s.reg 0x1F, s.reg 0x20, s.reg 0x21)) =
        some (0x0000, 0x1234, 0x0000) ∧
      after (exec .hostRdActual { z with mbActualLen := 6 }) State.result = some (some (.word 6)) := by decide +kernel
/-- R61, R58: a record is replaced in its own namespace. -/
theorem test_hostTmplWr :
    after (exec (.hostTmplWr .req 5 tmpl5) z) (fun s => (s.template .req 5, s.template .rsp 5)) =
      some (tmpl5, absentRecord) := by decide +kernel
/-- Vector R1: CMD_REG, the accumulated bytes and the command are reset; templates and frames sent are kept. -/
theorem test_reset :
    after (exec .reset { zTmpl 5 tmpl5 0x0005 with
        mbBuf := [0x01, 0x03, 0x00], spActive := some 0x0005, spLast := some 0x0005, txA := [[0x01]] })
      (fun s => (s.cmd, s.mbBuf, [s.spActive, s.spLast], s.template .req 5 :: s.txA)) =
      some (0xFFFF, [], [none, none], [tmpl5, [0x01]]) := by decide +kernel

/-! ## Witnesses: a state and operands that meet the hypotheses of each statement, per clause -/

/-- DecodeEncodeAgree, EveryInstructionCompletes: the longest forms. -/
theorem witness_wf : (Instr.mbFc03Rsp 0x01 (List.replicate 125 0#16)).wf = true ∧
    (Instr.mbFc10 0x01 (List.replicate 252 0#8)).wf = true ∧
    (Instr.spFrame 0x40 0x10 0x1F 0x14 [0xEE] [0x01, 0x10, 0x41]).wf = true ∧
    (Instr.cmdIssue 0x00 0xFF).wf = true ∧ (Instr.hostTmplWr .rsp 41 tmpl5).wf = true := by decide +kernel
/-- StepRunsDelivery, both clauses. -/
theorem witness_StepRunsDelivery :
    ({ z with inbox := [⟨.spPoll, []⟩] }.inbox = [⟨.spPoll, []⟩] ∧ decode ⟨.spPoll, []⟩ = .ok .spPoll) ∧
      z.inbox = [] := by decide +kernel
/-- StepAbandonsFaultyFrame, each clause: M30, S3, two tokens, the empty frames, register 0xE0, code 0x04. -/
theorem witness_StepAbandonsFaultyFrame :
    decode ⟨.mbRequest, [0x01, 0x03, 0x00]⟩ = .error (.mbFrame .tooShort) ∧
      decode ⟨.spFrame, [0xFF, 0xFF, 0x10, 0x01, 0x00]⟩ = .error (.spFrame .shortFrame) ∧
      decode ⟨.spToken, [0x10, 0x02, 0x41]⟩ = .error .notAToken ∧ decode ⟨.spToken, []⟩ = .error .notAToken ∧
      decode ⟨.spFrame, []⟩ = .error .nothingReceived ∧ decode ⟨.mbRequest, []⟩ = .error .nothingReceived ∧
      decode ⟨.hostRd, [0xE0]⟩ = .error .badOperands ∧
      decode ⟨.mbResponse, [0x01, 0x83, 0x04, 0x40, 0xF3]⟩ = .error .notAResponse ∧
      257 ≤ (List.replicate 257 0#8).length := by decide +kernel
/-- An empty SP frame writes no status (R201, S1), a short one does (S3), and two tokens leave the second's value. -/
theorem test_step_noRow :
    after (step { z with inbox := [⟨.spFrame, []⟩] }) (fun s => s.reg 0x01) = some 0x0000 ∧
      after (step { z with inbox := [⟨.spFrame, [0xFF, 0xFF, 0x10, 0x01, 0x00]⟩] }) (fun s => s.reg 0x01) =
        some 0xE001 ∧
      after (step { z with inbox := [⟨.spToken, [0x41, 0x10, 0x02]⟩] }) State.result =
        some (some (.token 0x02 true false)) := by decide +kernel
/-- After an overflow the rest is a frame of its own (R252, R462): vector M34. -/
theorem test_decode_afterOverflow :
    dec .mbRequest ([0x01, 0x10, 0x00, 0x20, 0x00, 0x7C, 0xF8] ++ List.replicate 248 0x5A#8 ++ [0x44, 0xF4] ++
        [0x01, 0x03, 0x00, 0x00, 0x00, 0x01, 0x84, 0x0A]) =
      some (.mbFc03 0x01 [0x00, 0x00, 0x00, 0x01]) := by decide +kernel
/-- Every class of the taxonomy is some error's (R400 to R406). -/
theorem test_errorClass :
    errorClass (.modbus .overflow) = .resource ∧ errorClass (.modbus .badLength) = .format ∧
      errorClass (.modbus .badCrc) = .integrity ∧ errorClass (.dropped .unmatchedKey) = .protocol ∧
      errorClass (.dropped .readFailed) = .storage ∧ errorClass (.degraded .rawTruncated) = .resource ∧
      errorClass .configSet = .storage := by decide
/-- FetchWordRuns. -/
theorem witness_FetchWordRuns : decodeTableWord 16 0xFF05 = some (.cmdIssueRaw 0x05) := by decide +kernel
/-- NoErrorStops: a delivery that is no row is taken. -/
theorem witness_NoErrorStops :
    after (step { z with inbox := [⟨.hostRd, [0xE0]⟩] }) State.inbox = some [] := by decide +kernel
/-- A legal state other than reset: a request under way. -/
theorem witness_Inv : ({ zB [0xFF, 0x10] with inbox := [⟨.spSilence, []⟩] } : State).Inv :=
  ⟨legalParams_ok, by decide +kernel, by decide +kernel, by decide +kernel, rfl, by decide +kernel, emptyStore_wf⟩
/-- InvariantKept, OutputsOnlyGrow: that state's step answers a next state, which leaves ERR_SHORT. -/
theorem witness_InvariantKept :
    after (step { zB [0xFF, 0x10] with inbox := [⟨.spSilence, []⟩] }) (fun s => (s.reg 0x01, s.spRx)) =
      some (0xE001, []) := by decide +kernel
/-- PortWriteTable, EnginesKeepApart: a row of each port that changes a register, CMD_REG, STATUS_REG. -/
theorem witness_PortWriteTable :
    z.cfg.Ok ∧ portA (.mbFc06 0x01 [0x00, 0x1F, 0x12, 0x34]) = true ∧
      after (exec (.mbFc06 0x01 [0x00, 0x1F, 0x12, 0x34]) z) (fun s => decide (s.reg 0x1F ≠ z.reg 0x1F)) = some true ∧
      portB .spPoll = true ∧ after (exec .spPoll (zReg 0 3)) (fun s => decide (s.cmd ≠ (zReg 0 3).cmd)) = some true ∧
      portB .spSilence = true ∧
      after (exec .spSilence (zB [0xFF])) (fun s => decide (s.reg 1 ≠ z.reg 1)) = some true := by decide +kernel
/-- ResetState, ResetEvent: there are registers other than CMD_REG. -/
theorem witness_ResetState : (223 : Nat) < 224 ∧ ∀ c : Fin 32, (223 : Nat) ≠ c.val := by decide +kernel
/-- MbRxByteBuffers, both clauses. -/
theorem witness_MbRxByteBuffers : (zA (List.replicate 256 0#8)).mbBuf.length = z.cfg.mbBufMax ∧
    (zA (List.replicate 255 0#8)).mbBuf.length ≠ z.cfg.mbBufMax := by decide +kernel
/-- MbSilenceIdle. -/
theorem witness_MbSilenceIdle : z.mbBuf = [] := rfl
/-- MbSilentDrops, each clause: 3 bytes, address 02 (M31), CRC swapped (M33). -/
theorem witness_MbSilentDrops : (zA [0x01, 0x03, 0x00]).mbBuf.length < 4 ∧
    (zA [0x02, 0x03, 0x00, 0x00, 0x00, 0x01, 0x84, 0x39]).mbBuf.getD 0 0 ≠ z.cfg.mbSlaveAddr ∧
    crcMb ([0x01, 0x03, 0x00, 0x00, 0x00, 0x0A, 0xCD, 0xC5].take 6) ≠ be16 0xC5 0xCD := by decide +kernel
/-- MbSilenceRunsRequest: a good frame (M1) and a 4-byte illegal one (M29) are the encodings of their rows. -/
theorem witness_MbSilenceRunsRequest :
    [0x01, 0x03, 0x00, 0x00, 0x00, 0x01, 0x84, 0x0A] = (encode (.mbFc03 0x01 [0x00, 0x00, 0x00, 0x01])).bytes ∧
      [0x01, 0x2B, 0x40, 0x3F] = (encode (.mbIllegal 0x01 0x2B [])).bytes := by decide +kernel
/-- Fc03Reads: the last register (M3), and the largest quantity to the end of the bank (M9). -/
theorem witness_Fc03Reads : z.cfg.mbSlaveAddr = 0x01 ∧ (0xDF#16).toNat + (1#16).toNat ≤ 224 ∧
    (0x63#16).toNat + (125#16).toNat ≤ 224 ∧ (125#16).toNat ≤ 125 := by decide +kernel
/-- Fc03Refusals, each clause: length (M8), 225 (M4), QTY 0 at 224 (M7), QTY 126 (M6). -/
theorem witness_Fc03Refusals : ([0, 0, 0, 1, 0] : List Byte).length ≠ 4 ∧ (0xDF#16).toNat + (2#16).toNat > 224 ∧
    (0xE0#16).toNat + (0#16).toNat ≤ 224 ∧ (0#16).toNat + (126#16).toNat ≤ 224 ∧ (126#16).toNat > 125 := by decide +kernel
/-- Fc06Writes: the ends of both windows, a persisted address, one that is not, CMD_REG. -/
theorem witness_Fc06Writes : inCtrl (0x1F#16).toNat ∧ inWritew (0x80#16).toNat ∧ inWritew (0xDF#16).toNat ∧
    z.cfg.persist.lookup 0x1F = some 15 ∧ z.cfg.persist.lookup 0x80 = none ∧ (0#16).toNat = z.cfg.cmdReg.val := by
  decide +kernel
/-- Fc06Refusals, each clause (M16's length, M12, M13, M15). -/
theorem witness_Fc06Refusals : ([0, 0, 0] : List Byte).length ≠ 4 ∧ inReadw (0x20#16).toNat ∧ inReadw (0x7F#16).toNat ∧
    (0xE0#16).toNat ≥ 224 := by decide +kernel
/-- Fc10Writes: 123 registers from the first of READW (M25), one register at the end of the bank. -/
theorem witness_Fc10Writes : (List.replicate 123 0x5A5A#16).length ≤ 123 ∧ 0x20 ≤ (0x20#16).toNat ∧
    (0x20#16).toNat + 123 ≤ 224 ∧ (0xDF#16).toNat + 1 ≤ 224 := by decide +kernel
/-- Fc10Refusals, each clause (M24, M20, M21, M26's quantity, M22, M18, M19). -/
theorem witness_Fc10Refusals : ([0, 0x80, 0, 1] : List Byte).length < 5 ∧ (3#8).toNat ≠ 2 * (2#16).toNat ∧
    (0#8).toNat = 2 * (0#16).toNat ∧ (248#8).toNat = 2 * (124#16).toNat ∧ (124#16).toNat > 123 ∧
    ((2#8).toNat = 2 * (1#16).toNat ∧ ([0x12, 0x34, 0x56] : List Byte).length ≠ (2#8).toNat) ∧
    ((4#8).toNat = 2 * (2#16).toNat ∧ ([0x11, 0x22, 0x33, 0x44] : List Byte).length = (4#8).toNat ∧
      (0x1F#16).toNat < 0x20 ∧ (0xDF#16).toNat + (2#16).toNat > 224) := by decide +kernel
/-- IllegalFunctionAnswers, OtherSlaveIgnored. -/
theorem witness_mbAddress : z.cfg.mbSlaveAddr = 0x01#8 ∧ (0x00#8) ≠ z.cfg.mbSlaveAddr ∧ (0x04#8) ≠ 0x03#8 := by decide +kernel
/-- SpRxByteBuffers, both clauses. -/
theorem witness_SpRxByteBuffers : (zB (List.replicate 511 0#8)).spRx.length < z.cfg.spRxMax ∧
    z.cfg.spRxMax ≤ (zB (List.replicate 512 0#8)).spRx.length := by decide +kernel
/-- SpSilenceEarlyExits, each clause: nothing received, the flag set, 1 and 10 bytes. -/
theorem witness_SpSilenceEarlyExits : (z.spRx = [] ∧ z.spOvf = false) ∧ { z with spOvf := true }.spOvf = true ∧
    (zB [0xFF]).spRx.length = 1 ∧ (zB (List.replicate 10 0#8)).spRx.length < 11 ∧ (zB []).spOvf = false := by
  decide +kernel
/-- SpSilenceChecks, no verdict and no CRC field (S4, S5). -/
theorem witness_SpSilenceChecks_markers :
    (destuff (stripSync [0xFF, 0xFF, 0x10, 0x01, 0x40, 0x00, 0x10, 0x1F, 0x14, 0x02, 0x41, 0x03, 0x00, 0x00])).marks =
        none ∧
      destuff (stripSync [0xFF, 0xFF, 0x10, 0x01, 0x40, 0x00, 0x10, 0x1F, 0x14, 0x10, 0x02, 0x41, 0x10, 0x03]) =
        ⟨[0x01, 0x40, 0x00, 0x1F, 0x14, 0x02, 0x41, 0x03], some (5, 7)⟩ := by decide +kernel
/-- SpSilenceChecks, the checks after the CRC field: a wrong CRC (S6), then with a right one a header of 6 bytes,
another first byte (S8), STX at index 4 (S9), and the shortest frame that is accepted (S13). -/
theorem witness_SpSilenceChecks_header :
    crcSp [0x01, 0x40, 0x00, 0x1F, 0x14, 0x02, 0x41, 0x03] ≠ 0x4A35#16 ∧
      (crcSp [0x01, 0x40, 0x00, 0x1F, 0x02, 0x03] = 0x6D9B#16 ∧
        destuff (stripSync [0xFF, 0xFF, 0x10, 0x01, 0x40, 0x00, 0x10, 0x1F, 0x10, 0x02, 0x10, 0x03, 0x6D, 0x9B]) =
          ⟨[0x01, 0x40, 0x00, 0x1F, 0x02, 0x03, 0x6D, 0x9B], some (4, 5)⟩) ∧
      crcSp [0x05, 0x40, 0x00, 0x1F, 0x14, 0x02, 0x41, 0x03] = 0x4559#16 ∧
      (crcSp [0x01, 0x40, 0x00, 0x1F, 0x02, 0x41, 0x42, 0x03] = 0x67A4#16 ∧
        destuff (stripSync [0xFF, 0xFF, 0x10, 0x01, 0x40, 0x00, 0x10, 0x1F, 0x10, 0x02, 0x41, 0x42, 0x10, 0x03, 0x67,
          0xA4]) = ⟨[0x01, 0x40, 0x00, 0x1F, 0x02, 0x41, 0x42, 0x03, 0x67, 0xA4], some (4, 7)⟩) ∧
      (crcSp [0x01, 0x40, 0x00, 0x1F, 0x14, 0x02, 0x03] = 0xD49A#16 ∧
        destuff (stripSync [0xFF, 0xFF, 0x10, 0x01, 0x40, 0x00, 0x10, 0x1F, 0x14, 0x10, 0x02, 0x10, 0x03, 0xD4, 0x9A]) =
          ⟨[0x01, 0x40, 0x00, 0x1F, 0x14, 0x02, 0x03, 0xD4, 0x9A], some (5, 6)⟩) := by decide +kernel
/-- SpSilenceAcceptsFrame: the frame of S11 is the encoding of a well-formed row. -/
theorem witness_SpSilenceAcceptsFrame : (Instr.spFrame 0x40 0x00 0x1F 0x14 [] [0x41, 0x42, 0x43]).wf = true ∧
    (encode (.spFrame 0x40 0x00 0x1F 0x14 [] [0x41, 0x42, 0x43])).bytes =
      [0xFF, 0xFF, 0x10, 0x01, 0x40, 0x00, 0x10, 0x1F, 0x14, 0x10, 0x02, 0x41, 0x42, 0x43, 0x10, 0x03, 0xD6, 0xB1] := by
  decide +kernel
/-- SyncBytesIgnored: the body of S23, with no sync byte and with two. -/
theorem witness_SyncBytesIgnored : ([0x10, 0x01] : List Byte).head? ≠ some 0xFF#8 ∧ 11 ≤ 0 + 14 ∧ 11 ≤ 2 + 14 := by
  decide +kernel
/-- EscapePairCrcRejected: S21 (CRC 0x1002), and payloads whose CRC is 0x1003, 0x1001 and 0x101F. -/
theorem witness_EscapePairCrcRejected :
    crcSp (logicalFrame ⟨0x40, 0x00, 0x1F, 0x14, [], [0x5E, 0x64]⟩) = 0x1002#16 ∧
      crcSp (logicalFrame ⟨0x40, 0x00, 0x1F, 0x14, [], [0x0A, 0xE3]⟩) = 0x1003#16 ∧
      crcSp (logicalFrame ⟨0x40, 0x00, 0x1F, 0x14, [], [0xA3, 0xED]⟩) = 0x1001#16 ∧
      crcSp (logicalFrame ⟨0x40, 0x00, 0x1F, 0x14, [], [0xD4, 0x71]⟩) = 0x101F#16 ∧
      textReadable [0x40, 0x00, 0x1F, 0x14] = true ∧ textReadable [0x5E, 0x64] = true ∧
      textReadable [0xD4, 0x71] = true ∧ .esc .stx ∈ tokens [0x41, 0x10, 0x02] := by decide +kernel
/-- The ends of EscapePairCrcRejected on those frames (R466): where the pair is no STX or ETX, ERR_SHORT with nothing
after it and ERR_CRC with a byte after it. -/
theorem test_spSilence_escapePairShort :
    after (exec .spSilence (zB (spWire ⟨0x40, 0x00, 0x1F, 0x14, [], [0xD4, 0x71]⟩))) (fun s => s.reg 0x01) =
        some 0xE001 ∧
      after (exec .spSilence (zB (spWire ⟨0x40, 0x00, 0x1F, 0x14, [], [0xD4, 0x71]⟩ ++ [0x10]))) (fun s => s.reg 0x01) =
        some 0xE002 ∧
      after (exec .spSilence (zB (spWire ⟨0x40, 0x00, 0x1F, 0x14, [], [0x0A, 0xE3]⟩))) (fun s => s.reg 0x01) =
        some 0xE004 := by decide +kernel
/-- The state in which R214 and R211 differ is reached: a template of LEN 0 issued as 0xFF08 leaves no function byte (as
T6), and a frame then takes raw mode (R211, R117; log 22). -/
theorem test_dispatch_noFunctionByte :
    after (exec .spPoll (zTmpl 8 (rec96 [0x00]) 0xFF08)) (fun s => (s.spActive, s.spReqFnc)) = some (some 0xFF08, none) ∧
      after (exec (.spFrame 0x40 0x00 0x1F 0x14 [] [0xA1, 0xA2]) { z with spActive := some 0xFF08, spLast := some 0xFF08 })
        (fun s => (s.reg 0x20, s.events)) = some (0xA1A2, []) := by decide +kernel
/-- DispatchRoutes, each clause: a matched key, and unmatched ones with and without raw mode, and no request sent. -/
theorem witness_DispatchRoutes : be16 0x1D#8 0x14#8 ∈ z.cfg.cmdTable ∧ be16 0x2A#8 0x55#8 ∉ z.cfg.cmdTable ∧
    (zIssued 0xFF07 0x2A).spActive = some 0xFF07#16 ∧ hi8 0xFF07#16 = 0xFF#8 ∧ hi8 0x0005#16 ≠ 0xFF#8 ∧
    z.spReqFnc = none ∧ z.spActive = none := by decide +kernel
/-- FieldModeWritesImage: more records than fit (S15), and an active command. -/
theorem witness_FieldModeWritesImage :
    (segment 0x0C ((List.replicate 4 (List.replicate 60 0x61#8 ++ [0x0C#8])).flatten ++ [0x62, 0x0C])).length = 5 ∧
      (fieldImage .low (List.replicate 4 (List.replicate 60 0x61#8))).length = 125 ∧
      (zIssued 0x0005 0x1D).spActive = some 0x0005#16 := by decide +kernel
/-- RawModeWritesImage, the pair and the odd clause: 192 bytes and 5 bytes. -/
theorem witness_RawModeWritesImage : 2 * 95 + 1 < min (List.replicate 200 0#8).length 192 ∧
    2 * 2 + 1 = min ([0xA1, 0xA2, 0xA3, 0xA4, 0xA5] : List Byte).length 192 := by decide +kernel
/-- PollIssuesAndConsumes, RepeatReissues, each clause. -/
theorem witness_PollAndRepeat : z.cmd = 0xFFFF#16 ∧ (zReg 0 5).cmd ≠ 0xFFFF#16 ∧
    (zIssued 0x0005 0x1D).spLast = some 0x0005#16 ∧ (zIssued 0x0005 0x1D).cmd = 0xFFFF#16 ∧ z.spLast = none ∧
    z.cfg.cmdReg ≠ z.cfg.statusReg := by decide +kernel
/-- IssueSendsRequest: template 5, and a record of the greatest length in the last id. -/
theorem witness_IssueSendsRequest : z.readFails = false ∧ ((zTmpl 5 tmpl5 5).template .req 5).getD 0 0 = 0x04#8 ∧
    ((zTmpl 41 (rec96 [0x5F]) 41).template .req 41).getD 0 0 = 0x5F#8 ∧
    (stuffBytes ([0x01#8, 0x00, 0x40, 0x1F] ++ [0x1D, 0x02, 0x33, 0x03])).length ≤ z.cfg.spTxMax - 4 := by
  decide +kernel
/-- IssueStorageErrors, each clause (T3, T4, T5, and a read that fails). -/
theorem witness_IssueStorageErrors : 41 < (42#8).toNat ∧ { z with storeAnswers := [true] }.readFails = true ∧
    ((z.template .req 3).getD 0 0).toNat = 0xFF ∧ 95 < (((zTmpl 6 (rec96 [0x60]) 6).template .req 6).getD 0 0).toNat := by
  decide +kernel
/-- IssueCapacity, both clauses (T10, and the decided SP_TX_MAX). -/
theorem witness_IssueCapacity :
    10 - 4 < (stuffBytes ([0x01#8, 0x00, 0x40, 0x1F] ++ [0x1D, 0x02, 0x33, 0x03])).length ∧ z.cfg.spTxMax = 512 := by
  decide +kernel
/-- StuffReturns, both clauses, and StuffRoundTrip. -/
theorem witness_Stuff : (stuffBytes [0x01]).length ≤ 2 ∧ 1 < (stuffBytes [0x01]).length ∧
    stuff [0x01, 0x02, 0x03, 0x1F] 8 = some [0x10, 0x01, 0x10, 0x02, 0x10, 0x03, 0x10, 0x1F] := by decide +kernel
/-- TemplateRecordView, each clause at the ends of its range. -/
theorem witness_TemplateRecordView : (List.replicate 95 0#8).length = 95 ∧ (0x00#8).toNat ≤ 95 ∧ (0x5F#8).toNat ≤ 95 ∧
    95 < (0x60#8).toNat ∧ 95 < (0xFE#8).toNat ∧ (0xFE#8) ≠ 0xFF#8 := by decide +kernel
/-- HostTemplateWrites, both clauses. -/
theorem witness_HostTemplateWrites : tmpl5.length = 96 ∧ (List.replicate 95 0#8).length ≠ 96 ∧
    (Ns.rsp, (5 : Fin 42)) ≠ (Ns.req, 5) := by decide +kernel

/-- A run with a command of an unknown id (T3), polled at once: the environment is fair to it (R419). -/
def polledEnv : Nat → List Packet
  | 0 => [⟨.spPoll, []⟩]
  | _ + 1 => []

/-- The states of that run. -/
def polledRun : Nat → State
  | 0 => zReg 0 42
  | _ + 1 => z

/-- Laws/Fairness: a fair run with a pending command. -/
theorem witness_Fair : Run polledEnv polledRun ∧ Fair polledEnv polledRun ∧ (polledRun 0).cmd ≠ Config.sentinel := by
  refine ⟨fun n => ?_, ⟨fun n h => ?_, fun n h => ?_, fun n h => ?_⟩, by decide +kernel⟩
  · cases n with
    | zero => exact congrArg Host.Outcome.next (by decide +kernel : poll { zReg 0 42 with inbox := [] } = z)
    | succ n => rfl
  · cases n <;> exact absurd rfl h
  · cases n <;> exact absurd rfl h
  · cases n with
    | zero => exact ⟨0, Nat.le_refl 0, rfl⟩
    | succ n => exact absurd (by show z.cmd = _; decide +kernel) h

end Sys2Proof.Tests
end

section
/-! PROOFS. The statements about the state (10_state.md): each is a case split over the ports of `exec`, by what the
engine behind a port reaches (`MbReach`, `SpReach`, `SpIssueReach`). -/

namespace Sys2Proof.Machine

/-! ## The invariant -/

/-- What the Modbus engine reaches keeps the bounds: it leaves every field they speak of alone. -/
theorem MbReach.inv {w : Nat → Prop} {s t : State} (h : MbReach w s t) (hs : s.Inv) : t.Inv := by
  rw [h.rest]
  exact { hs with }

/-- What the SP engine reaches on receive keeps the bounds. -/
theorem SpReach.inv {s t : State} (h : SpReach s t) (hs : s.Inv) : t.Inv := by
  rw [h.rest]
  exact { hs with }

/-- What the SP engine reaches on the request path keeps the bounds: the command it remembers is one value, with its
function byte beside it (44_sp_link.md R306). -/
theorem SpIssueReach.inv {w : Nat → Prop} {s t : State} (h : SpIssueReach w s t) (hs : s.Inv) : t.Inv := by
  obtain ⟨hactive, hfnc⟩ := h.remembered hs.activeIsLast hs.fncHasCommand
  rw [h.rest]
  exact { hs with activeIsLast := hactive, fncHasCommand := hfnc }

theorem State.Inv.setReg {s : State} (hs : s.Inv) (a : Nat) (v : Word) : (s.setReg a v).Inv := { hs with }

theorem State.Inv.returns {s : State} (hs : s.Inv) (v : Value) : (s.returns v).Inv := { hs with }

theorem State.Inv.withResult {s : State} (hs : s.Inv) (r : Option Value) : (s.withResult r).Inv := { hs with }

theorem State.Inv.withInbox {s : State} (hs : s.Inv) (ps : List Packet) : State.Inv { s with inbox := ps } :=
  { hs with }

/-- RESET empties what is bounded and keeps the parameters and the Template Store (10_state.md R56). -/
theorem State.Inv.resetBlock {s : State} (hs : s.Inv) : (Machine.resetBlock s).Inv where
  cfgOk := by rw [State.resetBlock_cfg]; exact hs.cfgOk
  mbFits := Nat.zero_le _
  spFits := Nat.zero_le _
  ovfFull h := nomatch h
  activeIsLast := rfl
  fncHasCommand h := absurd rfl h
  storeWf := by rw [State.resetBlock_templates]; exact hs.storeWf

/-- Every row keeps the bounds. -/
theorem exec_inv {i : Instr} {s t : State} (h : exec i s = .next t) (hs : s.Inv) : t.Inv := by
  cases ha : portA i with
  | true =>
    obtain ⟨buf, hreach, hbuf⟩ := exec_portA h ha
    exact hreach.inv { hs with mbFits := hbuf hs.mbFits }
  | false =>
    cases hb : portB i with
    | true =>
      obtain ⟨rx, ovf, hreach, hrx, -⟩ | hreach := exec_portB h hb
      · obtain ⟨hfits, hfull⟩ := hrx hs.spFits hs.ovfFull
        exact hreach.inv { hs with spFits := hfits, ovfFull := hfull }
      · exact hreach.inv hs
    | false =>
      obtain ⟨a, v, -, rfl⟩ | ⟨-, rfl⟩ | ⟨ns, id, b, -, hlen, rfl⟩ | ⟨v, rfl⟩ := exec_otherPort h ha hb
      · exact hs.setReg _ v
      · exact hs.resetBlock
      · exact { hs with storeWf := storeWrite_wf _ _ _ hs.storeWf (templateKey_lt ns id) hlen }
      · exact hs.returns v

/-- Settles O9: a step that runs a row keeps the bounds by `exec_inv`; one that takes a delivery that is no row
abandons a frame, or returns values at most. -/
theorem invariantKept : Obligations.InvariantKept := by
  intro s t hs h
  obtain ⟨-, rfl⟩ | ⟨p, rest, -, hcase⟩ := step_cases h
  · exact hs
  · have hs' := hs.withInbox rest
    obtain ⟨i, -, hexec⟩ | ⟨e, rfl⟩ | ⟨e, rfl⟩ | ⟨r, rfl⟩ := hcase
    · exact exec_inv hexec hs'
    · exact (abandonMb_reach (fun _ => False) _ _ e).inv hs'
    · exact (abandonSp_reach _ e).inv hs'
    · exact hs'.withResult r

/-! ## The outputs -/

/-- The outputs of `s` are the beginning of those of `t`, and the machine's parameters are the same. -/
def OutputsExtend (s t : State) : Prop :=
  s.txA <+: t.txA ∧ s.txB <+: t.txB ∧ s.events <+: t.events ∧ t.cfg = s.cfg

/-- An update of the other fields leaves the outputs as they were. -/
theorem OutputsExtend.of_eq {s t : State} (hA : t.txA = s.txA) (hB : t.txB = s.txB) (he : t.events = s.events)
    (hc : t.cfg = s.cfg) : OutputsExtend s t :=
  ⟨hA ▸ List.prefix_rfl, hB ▸ List.prefix_rfl, he ▸ List.prefix_rfl, hc⟩

/-- The Modbus engine sends at most one frame and appends its records (10_state.md R52, R57). -/
theorem MbReach.outputsExtend {w : Nat → Prop} {s t : State} (h : MbReach w s t) : OutputsExtend s t := by
  refine ⟨?_, by rw [h.rest], h.made, by rw [h.rest]⟩
  obtain hsame | ⟨frame, hsent⟩ := h.sent
  · rw [hsame]
  · rw [hsent]
    exact List.prefix_append _ _

/-- The SP engine sends nothing on receive, and appends its records. -/
theorem SpReach.outputsExtend {s t : State} (h : SpReach s t) : OutputsExtend s t :=
  ⟨by rw [h.rest], by rw [h.rest], h.made, by rw [h.rest]⟩

/-- The request path of the SP engine appends its frames to link B's. -/
theorem SpIssueReach.outputsExtend {w : Nat → Prop} {s t : State} (h : SpIssueReach w s t) : OutputsExtend s t :=
  ⟨by rw [h.rest], h.sent, by rw [h.rest], by rw [h.rest]⟩

/-- No row takes back an output. -/
theorem exec_outputsExtend {i : Instr} {s t : State} (h : exec i s = .next t) : OutputsExtend s t := by
  cases ha : portA i with
  | true =>
    obtain ⟨buf, hreach, -⟩ := exec_portA h ha
    exact hreach.outputsExtend
  | false =>
    cases hb : portB i with
    | true =>
      obtain ⟨rx, ovf, hreach, -⟩ | hreach := exec_portB h hb
      · exact hreach.outputsExtend
      · exact hreach.outputsExtend
    | false =>
      obtain ⟨a, v, -, rfl⟩ | ⟨-, rfl⟩ | ⟨ns, id, b, -, -, rfl⟩ | ⟨v, rfl⟩ := exec_otherPort h ha hb
      · exact .of_eq rfl rfl rfl rfl
      · exact .of_eq s.resetBlock_txA s.resetBlock_txB s.resetBlock_events s.resetBlock_cfg
      · exact .of_eq rfl rfl rfl rfl
      · exact .of_eq rfl rfl rfl rfl

/-- Settles O11: the rows by `exec_outputsExtend`, an abandoned frame by its engine's reach. -/
theorem outputsOnlyGrow : Obligations.OutputsOnlyGrow := by
  intro s t h
  show OutputsExtend s t
  obtain ⟨-, rfl⟩ | ⟨p, rest, -, ⟨i, -, hexec⟩ | ⟨e, rfl⟩ | ⟨e, rfl⟩ | ⟨r, rfl⟩⟩ := step_cases h
  · exact .of_eq rfl rfl rfl rfl
  · exact (exec_outputsExtend hexec :)
  · exact (abandonMb_reach (fun _ => False) { s with inbox := rest } p.bytes e).outputsExtend
  · exact (abandonSp_reach { s with inbox := rest } e).outputsExtend
  · exact .of_eq rfl rfl rfl rfl

/-! ## The two engines -/

/-- Settles O12: each engine's reach, with its own receive buffer, is within the fields the statement names. -/
theorem enginesKeepApart : Obligations.EnginesKeepApart := by
  intro i s t h
  constructor
  · intro ha
    obtain ⟨buf, hreach, -⟩ := exec_portA h ha
    rw [hreach.rest]
  · intro hb
    obtain ⟨rx, ovf, hreach, -⟩ | hreach := exec_portB h hb <;> rw [hreach.rest]

/-! ## The value last returned: every operation commutes with a change of it -/

namespace State

variable (s : State) (r : Option Value)

@[simp] theorem setReg_withResult (a : Nat) (v : Word) :
    (s.withResult r).setReg a v = (s.setReg a v).withResult r := rfl
@[simp] theorem emitA_withResult (f : List Byte) : (s.withResult r).emitA f = (s.emitA f).withResult r := rfl
@[simp] theorem cmd_withResult : (s.withResult r).cmd = s.cmd := rfl

@[simp] theorem abandonMb_withResult (f : List Byte) (e : MbError) :
    (s.withResult r).abandonMb f e = (s.abandonMb f e).withResult r := by
  unfold abandonMb
  split <;> rfl

@[simp] theorem success_withResult : (s.withResult r).success = s.success.withResult r := by
  unfold success
  rw [withResult_cfg]
  split <;> rfl

@[simp] theorem drawn_withResult : (s.withResult r).drawn = s.drawn.withResult r := by
  unfold drawn
  rw [withResult_storeAnswers]
  split <;> rfl

end State

section

variable (s : State) (r : Option Value)

/-! ### The Modbus engine -/

theorem fc03_withResult (f : List Byte) : fc03 f (s.withResult r) = (fc03 f s).withResult r := by
  unfold fc03
  split <;> simp

theorem persistCheck_withResult (reg : Nat) (val : Word) :
    persistCheck reg val (s.withResult r) = (persistCheck reg val s).withResult r := by
  unfold persistCheck
  rw [State.withResult_cfg]
  split <;> rfl

theorem fc06_withResult (f : List Byte) : fc06 f (s.withResult r) = (fc06 f s).withResult r := by
  unfold fc06
  split
  · simp
  · simp [persistCheck_withResult]

theorem fc10_withResult (f : List Byte) : fc10 f (s.withResult r) = (fc10 f s).withResult r := by
  unfold fc10
  split
  · simp
  · rfl

theorem mbIllegal_withResult (f : List Byte) : mbIllegal f (s.withResult r) = (mbIllegal f s).withResult r :=
  s.abandonMb_withResult r f _

theorem mbFunction_withResult (f : List Byte) : mbFunction f (s.withResult r) = (mbFunction f s).withResult r := by
  unfold mbFunction
  split
  · exact fc03_withResult s r f
  · exact fc06_withResult s r f
  · exact fc10_withResult s r f
  · exact mbIllegal_withResult s r f

theorem mbFrameStep_withResult (f : List Byte) : mbFrameStep f (s.withResult r) = (mbFrameStep f s).withResult r := by
  unfold mbFrameStep
  rw [State.withResult_cfg]
  split
  · exact s.abandonMb_withResult r f _
  · exact mbFunction_withResult s r f

theorem forSlave_withResult {f : List Byte} {op : List Byte → State → State}
    (h : op f (s.withResult r) = (op f s).withResult r) :
    forSlave f op (s.withResult r) = (forSlave f op s).withResult r := by
  unfold forSlave
  rw [State.withResult_cfg]
  split
  · exact h
  · exact s.abandonMb_withResult r f _

/-! ### The SP engine -/

theorem fieldMode_withResult (payload : List Byte) :
    fieldMode payload (s.withResult r) = (fieldMode payload s).withResult r := by
  unfold fieldMode
  rw [← State.success_withResult]
  rfl

theorem rawMode_withResult (payload : List Byte) :
    rawMode payload (s.withResult r) = (rawMode payload s).withResult r := by
  unfold rawMode
  rw [← State.success_withResult]
  rfl

theorem dispatch_withResult (fnc : Byte) (payload : List Byte) :
    dispatch fnc payload (s.withResult r) = (dispatch fnc payload s).withResult r := by
  have hkey : keyMatched (s.withResult r) fnc = keyMatched s fnc := rfl
  have hraw : rawFallback (s.withResult r) = rawFallback s := rfl
  unfold dispatch
  rw [hkey, hraw, fieldMode_withResult, rawMode_withResult]
  split
  · rfl
  · split <;> rfl

theorem spFrameStep_withResult (raw : List Byte) (ovf : Bool) :
    spFrameStep raw ovf (s.withResult r) = (spFrameStep raw ovf s).withResult r := by
  unfold spFrameStep
  split
  · rfl
  · exact dispatch_withResult s r _ _

theorem afterResolve_withResult (tid : Byte) :
    afterResolve (s.withResult r) tid = (afterResolve s tid).withResult r := by
  unfold afterResolve
  split
  · exact s.drawn_withResult r
  · rfl

theorem issue_withResult (c : Word) : issue c (s.withResult r) = (issue c s).withResult r := by
  have hresolve : resolve (s.withResult r) (cmdTid c) = resolve s (cmdTid c) := rfl
  unfold issue
  rw [hresolve, afterResolve_withResult, State.withResult_cfg]
  split
  · rfl
  · dsimp only
    split <;> rfl

theorem poll_withResult : poll (s.withResult r) = (poll s).withResult r := by
  unfold poll
  rw [State.cmd_withResult, issue_withResult]
  split <;> rfl

theorem repeatLast_withResult : repeatLast (s.withResult r) = (repeatLast s).withResult r := by
  unfold repeatLast
  rw [State.withResult_spLast, State.cmd_withResult]
  split
  · split
    · exact issue_withResult s r _
    · rfl
  · rfl

end

/-- States that differ in the value last returned leave one outcome but for it. -/
theorem outcomeBlind_next {t u : State} {r : Option Value} (h : t = u.withResult r) :
    outcomeBlind (.next t) = outcomeBlind (.next u) := by
  rw [h]
  rfl

/-- Settles O13: a row's operation commutes with a change of the value last returned, or replaces that value. -/
theorem resultIsOutputOnly : Obligations.ResultIsOutputOnly := by
  intro i s r
  cases i with
  | mbFc03 addr data => exact outcomeBlind_next (forSlave_withResult s r (fc03_withResult s r _))
  | mbFc06 addr data => exact outcomeBlind_next (forSlave_withResult s r (fc06_withResult s r _))
  | mbFc10 addr data => exact outcomeBlind_next (forSlave_withResult s r (fc10_withResult s r _))
  | mbIllegal addr fc data => exact outcomeBlind_next (forSlave_withResult s r (mbIllegal_withResult s r _))
  | mbSilence =>
    refine outcomeBlind_next (r := r) ?_
    rw [State.withResult_mbBuf]
    split
    · rfl
    · exact mbFrameStep_withResult { s with mbBuf := [] } r _
  | spFrame dad sad isi fnc ext payload => exact outcomeBlind_next (dispatch_withResult s r fnc payload)
  | spFields payload => exact outcomeBlind_next (fieldMode_withResult s r payload)
  | spRaw payload => exact outcomeBlind_next (rawMode_withResult s r payload)
  | cmdIssueRaw tid => exact outcomeBlind_next (issue_withResult s r _)
  | cmdIssue mode tid => exact outcomeBlind_next (issue_withResult s r _)
  | spRxByte b =>
    refine outcomeBlind_next (r := r) ?_
    rw [State.withResult_spRx, State.withResult_cfg]
    split <;> rfl
  | spSilence =>
    refine outcomeBlind_next (r := r) ?_
    rw [State.withResult_spRx, State.withResult_spOvf]
    split
    · rfl
    · exact spFrameStep_withResult s.drained r _ _
  | spPoll => exact outcomeBlind_next (poll_withResult s r)
  | spRepeatDue => exact outcomeBlind_next (repeatLast_withResult s r)
  | hostTmplWr ns id bytes =>
    simp only [exec, execHostTmplWr]
    split <;> rfl
  | _ => rfl

/-! ## The host port -/

/-- Settles O60: read after write on the Template Store, whose records have each a key of its own. -/
theorem hostTemplateWrites : Obligations.HostTemplateWrites := by
  intro s ns id bytes
  constructor
  · intro hlen
    refine ⟨_, if_pos hlen, storeRead_storeWrite_self _ _ _, fun ns' id' hne => ?_, rfl⟩
    have hkey : templateKey ns' id' ≠ templateKey ns id := fun hk => by
      obtain ⟨rfl, rfl⟩ := templateKey_inj ns' ns id' id hk
      exact hne rfl
    exact storeRead_storeWrite_ne _ _ _ _ hkey
  · intro hlen
    exact if_neg hlen

/-- Settles O58: both rows are `returns` of the value they name. -/
theorem hostReads : Obligations.HostReads := fun _ _ => ⟨rfl, rfl⟩

/-- Settles O59: read after write on the Register Bank. -/
theorem hostWrites : Obligations.HostWrites :=
  fun s a v => ⟨s.setReg a.val v, rfl, fun c _ => s.reg_setReg a.val c v a.isLt, rfl⟩

/-! ## Reset -/

/-- Settles O8: the parameters are legal whatever was drawn, and every bounded field is empty. -/
theorem invariantAtReset : Obligations.InvariantAtReset where
  cfgOk := params_ok
  mbFits := Nat.zero_le _
  spFits := Nat.zero_le _
  ovfFull h := nomatch h
  activeIsLast := rfl
  fncHasCommand h := absurd rfl h
  storeWf := emptyStore_wf

/-- Settles O14: the bank by its two laws at reset, every other field by its reset value. -/
theorem resetState : Obligations.ResetState :=
  ⟨bankAtReset_cmd _ _, bankAtReset_other _ _, rfl, rfl, rfl, rfl, rfl, rfl, rfl, rfl, rfl⟩

end Sys2Proof.Machine
end

section
/-! PROOFS. The port write table (20_memory.md R78): which registers a row changes, from the reach of the engine behind
its port; on Port B also what it leaves in CMD_REG and STATUS_REG. -/

namespace Sys2Proof.Machine

/-- Every register a row changes is one the table lets it write. -/
theorem exec_mayWrite {i : Instr} {s t : State} (h : exec i s = .next t) {a : Nat} (ha : a < 224)
    (hne : t.reg a ≠ s.reg a) : mayWrite s i a := by
  cases hA : portA i with
  | true =>
    obtain ⟨buf, hreach, -⟩ := exec_portA h hA
    exact hreach.regs a ha hne
  | false =>
    cases hB : portB i with
    | true =>
      obtain ⟨rx, ovf, hreach, -, hsame | hmay⟩ | hreach := exec_portB h hB
      · exact absurd (hsame a) hne
      · exact hmay a (hreach.regs a ha hne)
      · exact hreach.regs a ha hne
    | false =>
      obtain ⟨b, v, rfl, rfl⟩ | ⟨rfl, -⟩ | ⟨ns, id, b, -, -, rfl⟩ | ⟨v, rfl⟩ := exec_otherPort h hA hB
      · by_contra hab
        exact hne ((s.reg_setReg b.val a v b.isLt).trans (if_neg hab))
      · trivial
      · exact absurd rfl hne
      · exact absurd rfl hne

/-- SP_POLL apart, the table gives Port B READW and STATUS_REG only. -/
theorem mayWrite_portB {s : State} {i : Instr} {a : Nat} (hB : portB i = true) (hw : mayWrite s i a) :
    i = .spPoll ∨ inReadw a ∨ a = s.cfg.statusReg.val := by
  cases i with
  | spPoll => exact .inl rfl
  | spFrame | spFields | spRaw | spSilence => exact .inr hw
  | cmdIssueRaw | cmdIssue | spRepeatDue => exact .inr (.inr hw)
  | mbFc06 | mbFc10 | mbSilence | hostWr | reset => nomatch hB
  | _ => exact False.elim hw

/-- CMD_REG is in CTRL and is not STATUS_REG (10_state.md R39), so of Port B's rows only SP_POLL may write it. -/
theorem eq_spPoll_of_mayWrite_cmdReg {s : State} {i : Instr} (hdif : s.cfg.cmdReg ≠ s.cfg.statusReg)
    (hB : portB i = true) (hw : mayWrite s i s.cfg.cmdReg.val) : i = .spPoll := by
  obtain rfl | hread | hstatus := mayWrite_portB hB hw
  · rfl
  · exact absurd hread.1 (Nat.not_le.mpr s.cfg.cmdReg.isLt)
  · exact absurd (Fin.ext hstatus) hdif

/-- What a row of Port B writes to CMD_REG is the sentinel: the row is SP_POLL, which consumes the command
(44_sp_link.md R307). -/
theorem exec_portB_cmd {i : Instr} {s t : State} (hdif : s.cfg.cmdReg ≠ s.cfg.statusReg) (h : exec i s = .next t)
    (hB : portB i = true) (hne : t.cmd ≠ s.cmd) : t.cmd = Config.sentinel := by
  obtain ⟨-, -, -, hcfg⟩ := exec_outputsExtend h
  rw [State.cmd, hcfg] at hne
  obtain rfl := eq_spPoll_of_mayWrite_cmdReg hdif hB (exec_mayWrite h (by omega) hne)
  cases h
  exact (poll_reach s).2

/-- What a row of Port B writes to STATUS_REG is a status code (60_exceptions.md R403). -/
theorem exec_portB_status {i : Instr} {s t : State} (hcfg : s.cfg.Ok) (h : exec i s = .next t) (hB : portB i = true)
    (hne : t.reg s.cfg.statusReg.val ≠ s.reg s.cfg.statusReg.val) :
    t.reg s.cfg.statusReg.val ∈ [s.cfg.errShort, s.cfg.errCrc, s.cfg.errAlloc, s.cfg.errMarkers] := by
  obtain ⟨hdif, -, -, -, -, -, -, hsuccess⟩ := hcfg
  obtain ⟨rx, ovf, hreach, -⟩ | hreach := exec_portB h hB
  · exact hreach.status hsuccess hne
  · exact hreach.status hne hdif.symm

/-- Settles O10: the table by `exec_mayWrite`, the two values of Port B by `exec_portB_cmd` and `exec_portB_status`. -/
theorem portWriteTable : Obligations.PortWriteTable := fun _ _ _ hcfg h =>
  ⟨fun _ ha hne => exec_mayWrite h ha hne,
    fun hB => ⟨exec_portB_cmd hcfg.1 h hB, exec_portB_status hcfg h hB⟩⟩

end Sys2Proof.Machine
end

section
/-! PROOFS. The encodings (30_encoding.md): the decoder reads back what the encoder writes, a step runs what its
delivery decodes to, a buffer is read as its tokens, and the rows with a fixed layout mean what that says. -/

namespace Sys2Proof.Machine

/-! ## The decoder on the encoder's packets -/

/-- The exception response read back (30_encoding.md R108). -/
theorem decodeResponse_exceptionFrame (addr : Byte) (fn : BitVec 7) (code : MbExc) :
    decodeResponse (exceptionFrame addr fn code) = .ok (.mbExceptionRsp addr fn code) := by
  rw [exceptionFrame, decodeResponse_withCrcMb _ le_rfl]
  simp [byteAt]

/-- The 0x03 response read back (30_encoding.md R105). -/
theorem decodeResponse_fc03Frame (addr : Byte) (values : List Word) (hmin : 1 ≤ values.length)
    (hmax : values.length ≤ Config.mbMaxReadQty) :
    decodeResponse (fc03Frame addr values) = .ok (.mbFc03Rsp addr values) := by
  have hlen : 3 ≤ ([addr, 0x03#8, BitVec.ofNat 8 (2 * values.length)] ++ wordsBytes values).length := by simp
  rw [← decodeFc03Rsp_fc03Frame addr values hmin hmax, fc03Frame, decodeResponse_withCrcMb _ hlen]
  simp [byteAt, decodeFunction]

/-- Two words in a frame of 6 bytes before its CRC, as in the responses to 0x06 and 0x10, are its two fields
(30_encoding.md R106, R107). -/
theorem fieldAt_twoWords (addr fc : Byte) (x y : Word) :
    fieldAt (withCrcMb ([addr, fc] ++ wordBytes x ++ wordBytes y)) 2 = x ∧
      fieldAt (withCrcMb ([addr, fc] ++ wordBytes x ++ wordBytes y)) 4 = y :=
  ⟨be16_hi8_lo8 x, be16_hi8_lo8 y⟩

/-- The 0x06 response read back (30_encoding.md R106). -/
theorem decodeResponse_fc06Frame (addr : Byte) (reg val : Word) :
    decodeResponse (fc06Frame addr reg val) = .ok (.mbFc06Rsp addr reg val) := by
  obtain ⟨hreg, hval⟩ := fieldAt_twoWords addr 0x06#8 reg val
  rw [fc06Frame, decodeResponse_withCrcMb _ (by simp), hreg, hval]
  simp [byteAt, decodeFunction]

/-- The 0x10 response read back (30_encoding.md R107). -/
theorem decodeResponse_fc10Frame (addr : Byte) (start qty : Word) :
    decodeResponse (fc10Frame addr start qty) = .ok (.mbFc10Rsp addr start qty) := by
  obtain ⟨hstart, hqty⟩ := fieldAt_twoWords addr 0x10#8 start qty
  rw [fc10Frame, decodeResponse_withCrcMb _ (by simp), hstart, hqty]
  simp [byteAt, decodeFunction]

/-- Settles O1, row by row: each encoding space has its own round trip, and the packets that hold only operands are
read off the decoder. -/
theorem decodeEncodeAgree : Obligations.DecodeEncodeAgree := by
  intro i hwf
  cases i with
  | mbFc03 addr data => exact decodeRequest_requestFrame addr 0x03#8 data hwf
  | mbFc06 addr data => exact decodeRequest_requestFrame addr 0x06#8 data hwf
  | mbFc10 addr data => exact decodeRequest_requestFrame addr 0x10#8 data hwf
  | mbIllegal addr fc data =>
    obtain ⟨hfc, hfits⟩ := Bool.and_eq_true_iff.mp hwf
    refine (decodeRequest_requestFrame addr fc data hfits).trans ?_
    rw [of_decide_eq_true hfc]
  | mbExceptionRsp addr fn code => exact decodeResponse_exceptionFrame addr fn code
  | mbFc03Rsp addr values =>
    obtain ⟨hmin, hmax⟩ := Bool.and_eq_true_iff.mp hwf
    exact decodeResponse_fc03Frame addr values (of_decide_eq_true hmin) (of_decide_eq_true hmax)
  | mbFc06Rsp addr reg val => exact decodeResponse_fc06Frame addr reg val
  | mbFc10Rsp addr start qty => exact decodeResponse_fc10Frame addr start qty
  | escSoh => exact decodeToken_tokenWire (.esc .soh)
  | escStx => exact decodeToken_tokenWire (.esc .stx)
  | escEtx => exact decodeToken_tokenWire (.esc .etx)
  | escIsi => exact decodeToken_tokenWire (.esc .isi)
  | literal b => exact decodeToken_tokenWire (.literal b)
  | spFrame dad sad isi fnc ext payload => exact decodeSpFrame_spWire ⟨dad, sad, isi, fnc, ext, payload⟩ hwf
  | cmdIssueRaw tid =>
    have htid : tid ≠ 0xFF#8 := of_decide_eq_true hwf
    exact congrArg Except.ok (by rw [decodeCommand_be16, if_pos rfl, if_neg htid])
  | cmdIssue mode tid =>
    have hmode : mode ≠ 0xFF#8 := of_decide_eq_true hwf
    exact congrArg Except.ok (by rw [decodeCommand_be16, if_neg hmode])
  | templateRecord bytes => exact if_pos hwf
  | hostRd a => simp [encode, decode, bankAddr_ofNat]
  | hostWr a v => simp [encode, decode, wordBytes, bankAddr_ofNat]
  | hostTmplWr ns id bytes => exact decodeTemplateWrite_eq ns id bytes hwf
  | cmdSentinel | spFields | spRaw | spUnmatched | stuff | destuff | crcMb | crcSp | mbRxByte | mbSilence | spRxByte
  | spSilence | spPoll | spRepeatDue | hostRdActual | reset => rfl

/-- Bytes that are the encoding of a well-formed instruction decode to it. -/
theorem decode_of_encode_eq {p : Packet} {i : Instr} (hwf : i.wf = true) (h : encode i = p) : decode p = .ok i :=
  h ▸ decodeEncodeAgree i hwf

/-- Settles O2: each of the spec's byte sequences is the encoding of its instruction, which the encoder computes. -/
theorem specWordsDecode : Obligations.SpecWordsDecode := by
  refine ⟨?_, ?_, ?_, ?_, ?_, ?_, ?_, ?_, ?_, ?_⟩ <;>
    exact decode_of_encode_eq (by decide +kernel) (by decide +kernel)

/-! ## The step on a delivery -/

/-- Settles O3: the step's definition on the two forms of the inbox. -/
theorem stepRunsDelivery : Obligations.StepRunsDelivery := by
  constructor
  · intro s p rest i hinbox hdecode
    simp only [step, stepInbox, stepPacket, hinbox, hdecode]
  · intro s hinbox
    simp only [step, stepInbox, hinbox]

/-- A table row's instruction is what the decoder reads from the row's packet. -/
theorem decode_tablePacket {nbits w : Nat} {i : Instr} (h : decodeTableWord nbits w = some i) :
    decode (tablePacket nbits w) = .ok i := by
  unfold decodeTableWord at h
  cases hd : decode (tablePacket nbits w) with
  | error e => rw [hd] at h; nomatch h
  | ok j => rw [hd] at h; exact congrArg Except.ok (Option.some.inj h)

/-- Settles O5: the word's packet is the next delivery (O3), and taking it leaves the state as it was. -/
theorem fetchWordRuns : Obligations.FetchWordRuns := fun s nbits w i h =>
  stepRunsDelivery.1 (s.withFetchWord nbits w) (tablePacket nbits w) s.inbox i rfl (decode_tablePacket h)

/-! ## The tokens of a buffer -/

/-- The wire bytes of a buffer's tokens are the buffer (30_encoding.md R115). -/
theorem flatMap_tokenWire_tokens (buf : List Byte) : (tokens buf).flatMap tokenWire = buf := by
  fun_induction tokens buf with
  | case1 => rfl
  | case2 b => rfl
  | case3 b rest m hm ih => simp [tokenWire, markerByte_of_markerOf hm, ih]
  | case4 b rest hm ih => simp [tokenWire, ih]
  | case5 a b rest ha ih => simp [tokenWire, ih]

/-- A literal the tokens of a buffer begin with is the buffer's first byte. -/
theorem eq_of_literal_mem_head?_tokens {b c : Byte} {rest : List Byte}
    (h : .literal c ∈ (tokens (b :: rest)).head?) : c = b := by
  obtain ⟨us, hus⟩ := List.head?_eq_some_iff.mp h
  have hwire := flatMap_tokenWire_tokens (b :: rest)
  rw [hus] at hwire
  exact (List.cons.inj hwire).1

/-- The tokens of a buffer read back: a DLE before a marker byte is read as their escape pair, never as two literals
(30_encoding.md R115). -/
theorem isChain_tokens (buf : List Byte) : (tokens buf).IsChain ReadsBack := by
  fun_induction tokens buf with
  | case1 => exact .nil
  | case2 b => exact .singleton _
  | case3 b rest m hm ih => exact List.isChain_cons.mpr ⟨fun u _ => esc_readsBack m u, ih⟩
  | case4 b rest hm ih =>
    refine List.isChain_cons.mpr ⟨fun u hu _ c hc => ?_, ih⟩
    subst hc
    rw [eq_of_literal_mem_head?_tokens hu]
    exact hm
  | case5 a b rest ha ih => exact List.isChain_cons.mpr ⟨fun u _ hdle => absurd (Token.literal.inj hdle) ha, ih⟩

/-- Settles O52: `ReadsBack` says of two tokens what the statement says of them. -/
theorem tokensReadBuffer : Obligations.TokensReadBuffer := fun buf =>
  ⟨flatMap_tokenWire_tokens buf, (isChain_tokens buf).imp fun _ _ hreads ⟨ht, b, hu, hb⟩ => hb (hreads ht b hu)⟩

/-! ## Rows with a fixed layout -/

/-- Settles O54: each token row returns its `tokenValue`. -/
theorem tokenMeanings : Obligations.TokenMeanings := fun _ _ => ⟨rfl, rfl, rfl, rfl, rfl⟩

/-- Settles O30: each response row sends its frame, whose words go high byte first. -/
theorem goodResponses : Obligations.GoodResponses := fun _ _ _ _ _ => ⟨rfl, rfl, rfl⟩

/-- What a record says by its length byte (30_encoding.md R121). -/
theorem viewRecord_cons (len : Byte) (rest : List Byte) :
    viewRecord (len :: rest) =
      if len.toNat = 0xFF then .absent
      else if len.toNat > 95 then .badLength
      else .payload (rest.take len.toNat) := by
  have hslice : slice (len :: rest) 1 (1 + len.toNat) = rest.take len.toNat := by simp [slice, Nat.add_comm 1]
  rw [← hslice]
  rfl

/-- Settles O57: the three ranges of the length byte. -/
theorem templateRecordView : Obligations.TemplateRecordView := by
  intro s len rest _
  have hexec : exec (.templateRecord (len :: rest)) s = .next (s.returns (.record (viewRecord (len :: rest)))) := rfl
  rw [hexec, viewRecord_cons]
  refine ⟨fun habsent => ?_, fun hfits => ?_, fun hlong hpresent => ?_⟩
  · rw [habsent]
    rfl
  · rw [if_neg (by omega), if_neg (by omega)]
    rfl
  · have hne : len.toNat ≠ 0xFF := fun h => hpresent (BitVec.eq_of_toNat_eq h)
    rw [if_neg hne, if_pos hlong]
    rfl

end Sys2Proof.Machine
end

section
/-! PROOFS. The Frame Codec (40_codec.md): STUFF by the token it emits for each byte, DESTUFF by the tokens it reads. -/

namespace Sys2Proof.Machine

/-! ## STUFF -/

/-- MARKERS, the four reserved bytes (00_scope.md R14). -/
abbrev markers : List Byte := [0x01#8, 0x02#8, 0x03#8, 0x1F#8]

/-- `markerOf` knows exactly the four reserved bytes (00_scope.md R14). -/
theorem markerOf_ne_none_iff (b : Byte) : markerOf b ≠ none ↔ b ∈ markers := by
  constructor
  · intro hb
    obtain ⟨m, hm⟩ := Option.ne_none_iff_exists'.mp hb
    rw [← markerByte_of_markerOf hm]
    cases m <;> decide
  · intro hb
    simp only [markers, List.mem_cons, List.not_mem_nil, or_false] at hb
    obtain rfl | rfl | rfl | rfl := hb <;> decide

/-- What STUFF writes for one byte (40_codec.md R151). -/
theorem tokenWire_stuffToken (b : Byte) :
    tokenWire (stuffToken b) = if b ∈ markers then [0x10#8, b] else [b] := by
  simp only [← markerOf_ne_none_iff, stuffToken]
  cases hb : markerOf b with
  | none => rfl
  | some m => simp [tokenWire, markerByte_of_markerOf hb]

theorem stuffBytes_cons (b : Byte) (x : List Byte) :
    stuffBytes (b :: x) = (if b ∈ markers then [0x10#8, b] else [b]) ++ stuffBytes x := by
  rw [← tokenWire_stuffToken]
  rfl

theorem stuff_eq_some_iff {x out : List Byte} {cap : Nat} :
    stuff x cap = some out ↔ (stuffBytes x).length ≤ cap ∧ stuffBytes x = out := by
  rw [stuff]
  split
  case isTrue hlong => simp [hlong]
  case isFalse hfits => simp [Nat.le_of_not_lt hfits]

theorem stuff_eq_none_iff {x : List Byte} {cap : Nat} : stuff x cap = none ↔ cap < (stuffBytes x).length := by
  simp [stuff]

/-- Settles O49: the bytes by `stuffBytes_cons`, the capacity check by the two answers of `stuff`. -/
theorem stuffReturns : Obligations.StuffReturns := by
  refine ⟨rfl, stuffBytes_cons, fun s cap x => ?_⟩
  have hexec : exec (.stuff cap x) s = .next (s.returns (.stuffed (stuff x cap))) := rfl
  rw [hexec]
  refine ⟨fun hfits => ?_, fun hlong => ?_⟩
  · rw [stuff_eq_some_iff.mpr ⟨hfits, rfl⟩]
    rfl
  · rw [stuff_eq_none_iff.mpr hlong]
    rfl

/-- A stuffed sequence is longer by one DLE for each marker byte (40_codec.md R158). -/
theorem length_stuffBytes (x : List Byte) :
    (stuffBytes x).length = x.length + x.countP (fun b => b ∈ markers) := by
  induction x with
  | nil => rfl
  | cons b x ih =>
    rw [stuffBytes_cons, List.length_append, ih, List.length_cons, List.countP_cons]
    by_cases hb : b ∈ markers
    · rw [if_pos hb, if_pos (decide_eq_true hb), List.length_cons, List.length_singleton]
      omega
    · rw [if_neg hb, if_neg (by simpa using hb), List.length_singleton]
      omega

/-- Settles O50: the length by induction on the bytes; at most all of them are markers. -/
theorem stuffLength : Obligations.StuffLength := fun x =>
  ⟨length_stuffBytes x, length_stuffBytes x ▸ Nat.le_add_right _ _, length_stuffBytes_le x⟩

/-! ## DESTUFF -/

/-- The verdict is OK at some positions exactly where it is OK at those of the tokens (40_codec.md R154). -/
theorem destuff_marks_ne_none_iff (buf : List Byte) :
    (destuff buf).marks ≠ none ↔
      (tokens buf).count (.esc .stx) = 1 ∧ (tokens buf).count (.esc .etx) = 1 ∧
        (tokens buf).idxOf (.esc .stx) < (tokens buf).idxOf (.esc .etx) := by
  simp only [Option.ne_none_iff_exists', Prod.exists, destuff_marks]
  constructor
  · rintro ⟨_, _, hstx, hetx, rfl, rfl, hlt⟩
    exact ⟨hstx, hetx, hlt⟩
  · rintro ⟨hstx, hetx, hlt⟩
    exact ⟨_, _, hstx, hetx, rfl, rfl, hlt⟩

/-- Every token takes at least one byte of the wire (30_encoding.md R114). -/
theorem one_le_length_tokenWire (t : Token) : 1 ≤ (tokenWire t).length := by
  cases t <;> simp [tokenWire]

theorem length_tokens_le (buf : List Byte) : (tokens buf).length ≤ buf.length := by
  calc (tokens buf).length
    _ = ((tokens buf).map fun t => (tokenWire t).length).length := (List.length_map _).symm
    _ ≤ ((tokens buf).map fun t => (tokenWire t).length).sum :=
      List.length_le_sum_of_one_le _ (List.forall_mem_map.mpr fun t _ => one_le_length_tokenWire t)
    _ = ((tokens buf).flatMap tokenWire).length := List.length_flatMap.symm
    _ = buf.length := by rw [flatMap_tokenWire_tokens]

/-- Settles O53: the bytes and the marks of the pass over the tokens. -/
theorem destuffVerdict : Obligations.DestuffVerdict := fun _ buf =>
  ⟨destuff buf, rfl, destuff_out buf, by simpa using length_tokens_le buf, destuff_marks buf⟩

/-! ## Stuffed and destuffed -/

theorem stuffToken_injective : Function.Injective stuffToken :=
  Function.LeftInverse.injective tokenByte_stuffToken

@[simp] theorem stuffToken_markerByte (m : Marker) : stuffToken (markerByte m) = .esc m := by
  simp [stuffToken]

/-- STUFF emits the escape of a marker as often as the input holds its byte. -/
theorem count_esc_map_stuffToken (m : Marker) (x : List Byte) :
    (x.map stuffToken).count (.esc m) = x.count (markerByte m) := by
  rw [← stuffToken_markerByte, List.count_map_of_injective _ _ stuffToken_injective]

/-- The first escape of a marker is emitted for the first of its bytes in the input. -/
theorem idxOf_esc_map_stuffToken (m : Marker) (x : List Byte) :
    (x.map stuffToken).idxOf (.esc m) = x.idxOf (markerByte m) := by
  have hbyte : (fun b => stuffToken b == .esc m) = (· == markerByte m) := by
    funext b
    rw [← stuffToken_markerByte, stuffToken_injective.beq_eq]
  rw [List.idxOf, List.findIdx_map]
  exact congrArg (List.findIdx · x) hbyte

/-- Settles O51: the tokens of a stuffed sequence are those of its bytes (`tokens_stuffBytes`), so their bytes are the
input, and the verdict's counts and positions are the input's. -/
theorem stuffRoundTrip : Obligations.StuffRoundTrip := by
  intro x out cap h
  obtain ⟨-, rfl⟩ := stuff_eq_some_iff.mp h
  constructor
  · rw [destuff_out, tokens_stuffBytes, List.map_map, Function.comp_def]
    simp only [tokenByte_stuffToken, List.map_id']
  · rw [destuff_marks_ne_none_iff, tokens_stuffBytes]
    simp only [count_esc_map_stuffToken, idxOf_esc_map_stuffToken]
    rfl

end Sys2Proof.Machine
end

section
/-! PROOFS. The CRC engines (41_crc.md): what the two rows return, and the residue by what each byte of a CRC field does
to the register that holds its copy. -/

namespace Sys2Proof.Machine

/-- Settles O55: both rows are `returns` of their CRC; the spec's example sequences are evaluated. -/
theorem crcReturns : Obligations.CrcReturns :=
  ⟨fun _ _ => ⟨rfl, rfl⟩, rfl, rfl, by decide +kernel, by decide +kernel⟩

/-! ## Shifts without feedback -/

/-- While the bits that leave the register are zero, CRC_MB shifts and adds no polynomial (41_crc.md R170). -/
theorem iterate_crcMbBit_of_low_zero {c : Word} {n : Nat} (hlow : ∀ i < n, c.getLsbD i = false) :
    crcMbBit^[n] c = c >>> n := by
  induction n with
  | zero => exact (BitVec.ushiftRight_zero c).symm
  | succ n ih =>
    have hbit : (c >>> n).getLsbD 0 = false := by simpa using hlow n n.lt_succ_self
    rw [Function.iterate_succ_apply', ih fun i hi => hlow i (Nat.lt_succ_of_lt hi), crcMbBit, hbit,
      BitVec.shiftRight_add]
    rfl

/-- While the bits that leave the register are zero, CRC_SP shifts and adds no polynomial (41_crc.md R172). -/
theorem iterate_crcSpBit_of_high_zero {c : Word} {n : Nat} (hhigh : ∀ i < n, c.getLsbD (15 - i) = false) :
    crcSpBit^[n] c = c <<< n := by
  induction n with
  | zero => exact (BitVec.shiftLeft_zero c).symm
  | succ n ih =>
    have hbit : (c <<< n).getLsbD 15 = false := by
      rw [BitVec.getLsbD_shiftLeft, hhigh n n.lt_succ_self, Bool.and_false]
    rw [Function.iterate_succ_apply', ih fun i hi => hhigh i (Nat.lt_succ_of_lt hi), crcSpBit, hbit,
      BitVec.shiftLeft_add]
    rfl

/-! ## A byte that cancels its half of the register -/

/-- `getLsbD_be16` in the form in which two words are compared bit by bit. -/
theorem getElem_be16 (a b : Byte) (i : Nat) (hi : i < 16) :
    (be16 a b)[i] = if h : i < 8 then b[i] else a[i - 8] :=
  BitVec.getElem_append hi

/-- The low byte of CRC_MB's register cancels itself, and the high byte moves down into its place. -/
theorem crcMbByte_be16_lo (h l : Byte) : crcMbByte (be16 h l) l = be16 0 h := by
  have hcancel : be16 h l ^^^ l.setWidth 16 = be16 h 0 := by
    ext i hi
    grind [getElem_be16]
  have hshift : be16 h 0 >>> 8 = be16 0 h := by
    ext i hi
    grind [getElem_be16]
  rw [crcMbByte, hcancel, iterate_crcMbBit_of_low_zero fun i hi => by simp [getLsbD_be16, hi], hshift]

/-- The high byte of CRC_SP's register cancels itself, and the low byte moves up into its place. -/
theorem crcSpByte_be16_hi (h l : Byte) : crcSpByte (be16 h l) h = be16 l 0 := by
  have hcancel : be16 h l ^^^ h.setWidth 16 <<< 8 = be16 0 l := by
    ext i hi
    grind [getElem_be16]
  have hshift : be16 0 l <<< 8 = be16 l 0 := by
    ext i hi
    grind [getElem_be16]
  have hhigh (i : Nat) (hi : i < 8) : (be16 0 l).getLsbD (15 - i) = false := by
    simp [getLsbD_be16, show ¬15 - i < 8 by omega]
  rw [crcSpByte, hcancel, iterate_crcSpBit_of_high_zero hhigh, hshift]

/-! ## The residue -/

/-- A link-A frame with its CRC has CRC zero: the field's two bytes cancel the register one after the other. -/
theorem crcMb_withCrcMb (x : List Byte) : crcMb (withCrcMb x) = 0 := by
  calc crcMb (withCrcMb x)
    _ = crcMbByte (crcMbByte (crcMb x) (lo8 (crcMb x))) (hi8 (crcMb x)) := crcMb_append x _
    _ = crcMbByte (be16 0 (hi8 (crcMb x))) (hi8 (crcMb x)) := by
      rw [← crcMbByte_be16_lo (hi8 (crcMb x)), be16_hi8_lo8]
    _ = be16 0 0 := crcMbByte_be16_lo _ _

/-- A link-B frame with its CRC has CRC zero, by the same argument with the halves exchanged. -/
theorem crcSp_append_crcSpField (x : List Byte) : crcSp (x ++ crcSpField x) = 0 := by
  calc crcSp (x ++ crcSpField x)
    _ = crcSpByte (crcSpByte (crcSp x) (hi8 (crcSp x))) (lo8 (crcSp x)) := crcSp_append x _
    _ = crcSpByte (be16 (lo8 (crcSp x)) 0) (lo8 (crcSp x)) := by
      rw [← crcSpByte_be16_hi (hi8 (crcSp x)), be16_hi8_lo8]
    _ = be16 0 0 := crcSpByte_be16_hi _ _

/-- Settles O56: the byte sent first cancels its half of the register and moves the other half to where the byte sent
second cancels it. -/
theorem crcResidue : Obligations.CrcResidue := fun x => ⟨crcMb_withCrcMb x, crcSp_append_crcSpField x⟩

end Sys2Proof.Machine
end

section
/-! PROOFS. The receive path of the SP engine (42_sp_parser.md R200 to R210): a silence after something was received
is its parse, an error of the parse leaving its status code and accepted fields being dispatched. -/

namespace Sys2Proof.Machine

/-! ## SP_SILENCE by its parse -/

/-- The frame step runs on the drained state wherever a byte or an overflow was received (42_sp_parser.md R201). -/
theorem exec_spSilence_of_received {s : State} (hrecv : ¬(s.spRx = [] ∧ s.spOvf = false)) :
    exec .spSilence s = .next (spFrameStep s.spRx s.spOvf s.drained) := by
  rw [exec, execSpSilence_eq, if_neg hrecv]

/-- A receive error leaves its status code in the drained state (60_exceptions.md R403). -/
theorem exec_spSilence_of_error {s : State} {e : SpError} (hrecv : ¬(s.spRx = [] ∧ s.spOvf = false))
    (hparse : spReceive s.spRx s.spOvf = .error e) :
    exec .spSilence s = .next (s.drainedWith (spErrorStatus s.cfg e)) := by
  rw [exec_spSilence_of_received hrecv, spFrameStep, hparse]
  rfl

/-- `exec_spSilence_of_error` for the errors of the frame itself. -/
theorem exec_spSilence_of_parse_error {s : State} {e : SpError} (hovf : s.spOvf = false) (hrx : s.spRx ≠ [])
    (hparse : parseSpFrame s.spRx = .error e) :
    exec .spSilence s = .next (s.drainedWith (spErrorStatus s.cfg e)) :=
  exec_spSilence_of_error (fun hnone => hrx hnone.1) (by rw [hovf, spReceive_parse, hparse])

/-- An accepted frame is what the row SP_FRAME does with its fields (42_sp_parser.md R210, R211). -/
theorem exec_spSilence_of_parse_ok {s : State} {p : SpFields} (hovf : s.spOvf = false) (hrx : s.spRx ≠ [])
    (hparse : parseSpFrame s.spRx = .ok p) :
    exec .spSilence s = exec (.spFrame p.dad p.sad p.isi p.fnc p.ext p.payload) s.drained := by
  rw [exec_spSilence_of_received fun hnone => hrx hnone.1, spFrameStep, hovf, spReceive_parse, hparse]
  rfl

theorem parseSpFrame_short {raw : List Byte} (hlen : raw.length < 11) : parseSpFrame raw = .error .shortFrame :=
  if_pos hlen

/-- DESTUFF's FormatError comes next (42_sp_parser.md R205). -/
theorem parseSpFrame_badMarkers {raw : List Byte} (hlen : 11 ≤ raw.length)
    (hmarks : (destuff (stripSync raw)).marks = none) : parseSpFrame raw = .error .badMarkers := by
  rw [parseSpFrame, if_neg (Nat.not_lt.mpr hlen)]
  simp only [hmarks]

/-- Then the compacted bytes are judged by the positions of their markers (42_sp_parser.md R206). -/
theorem parseSpFrame_marked {raw : List Byte} {stx etx : Nat} (hlen : 11 ≤ raw.length)
    (hmarks : (destuff (stripSync raw)).marks = some (stx, etx)) :
    parseSpFrame raw = parseLogical (destuff (stripSync raw)).out stx etx := by
  rw [parseSpFrame, if_neg (Nat.not_lt.mpr hlen)]
  simp only [hmarks]

theorem ne_nil_of_spMinRaw_le {raw : List Byte} (hlen : 11 ≤ raw.length) : raw ≠ [] :=
  List.ne_nil_of_length_pos (by omega)

/-- Settles O34: the frame on the wire is parsed to its own fields (`parseSpFrame_spWire`), and accepted fields are
dispatched. -/
theorem spSilenceAcceptsFrame : Obligations.SpSilenceAcceptsFrame := by
  intro s dad sad isi fnc ext payload hwf hovf hrx
  have hparse : parseSpFrame s.spRx = .ok ⟨dad, sad, isi, fnc, ext, payload⟩ :=
    hrx ▸ parseSpFrame_spWire ⟨dad, sad, isi, fnc, ext, payload⟩ hwf
  exact exec_spSilence_of_parse_ok hovf (hrx ▸ List.cons_ne_nil _ _) hparse

/-- Settles O33: each check that fails first is one error of `parseSpFrame`, by the laws of `parseLogical`. -/
theorem spSilenceChecks : Obligations.SpSilenceChecks := by
  rintro s _ hovf hlen rfl
  have hrx := ne_nil_of_spMinRaw_le hlen
  have hreject {e : SpError} := exec_spSilence_of_parse_error (e := e) hovf hrx
  refine ⟨fun hmarks => hreject (parseSpFrame_badMarkers hlen hmarks), fun stx etx hmarks => ?_⟩
  have hlogical := parseSpFrame_marked hlen hmarks
  refine ⟨fun hshort => ?_, fun hfield => ⟨fun hcrc => ?_, fun hcrc => ?_⟩⟩
  · exact hreject (hlogical.trans (parseLogical_crcMissing _ _ _ hshort))
  · exact hreject (hlogical.trans (parseLogical_badCrc _ _ _ hfield hcrc))
  have hchecks := hlogical.trans (parseLogical_header _ stx _ hfield hcrc)
  refine ⟨fun hshort => ?_, fun hheader hsoh => ?_, fun hheader hsoh hstx => ?_, fun hheader hsoh hstx => ?_⟩
  · exact hreject (hchecks.trans (if_pos hshort))
  · exact hreject (hchecks.trans ((if_neg (Nat.not_lt.mpr hheader)).trans (if_pos hsoh)))
  · exact hreject (hchecks.trans
      ((if_neg (Nat.not_lt.mpr hheader)).trans ((if_neg (not_not_intro hsoh)).trans (if_pos hstx))))
  · have haccepted := hchecks.trans
      ((if_neg (Nat.not_lt.mpr hheader)).trans ((if_neg (not_not_intro hsoh)).trans (if_neg (Nat.not_lt.mpr hstx))))
    exact (exec_spSilence_of_parse_ok hovf hrx haccepted :)

/-- Settles O32: an empty drain leaves the state, an overflow is reported before the bytes are looked at, and a short
frame is the parse's first error. -/
theorem spSilenceEarlyExits : Obligations.SpSilenceEarlyExits := by
  intro s
  refine ⟨fun hrx hovf => ?_, fun hovf => ?_, fun hovf hpos hlen => ?_⟩
  · have hdrained : s.drained = s := by rw [State.drained, ← hrx, ← hovf]
    rw [exec, execSpSilence_eq, if_pos ⟨hrx, hovf⟩, hdrained]
  · exact exec_spSilence_of_error (fun hnone => nomatch hovf.symm.trans hnone.2) (by rw [hovf, spReceive_overflow])
  · exact exec_spSilence_of_parse_error hovf (List.ne_nil_of_length_pos hpos) (parseSpFrame_short hlen)

/-! ## Sync bytes -/

/-- A silence after a frame of SP_MIN_RAW bytes reads only what STRIP_SYNC leaves of it (42_sp_parser.md R204). -/
theorem exec_spSilence_eq_of_stripSync_eq (s : State) {raw raw' : List Byte} (hlen : 11 ≤ raw.length)
    (hlen' : 11 ≤ raw'.length) (hstrip : stripSync raw = stripSync raw') :
    exec .spSilence { s with spRx := raw, spOvf := false } =
      exec .spSilence { s with spRx := raw', spOvf := false } := by
  have hparse : parseSpFrame raw = parseSpFrame raw' := by
    rw [parseSpFrame, parseSpFrame, if_neg (Nat.not_lt.mpr hlen), if_neg (Nat.not_lt.mpr hlen'), hstrip]
  have hstep : spFrameStep raw false s.drained = spFrameStep raw' false s.drained := by
    simp only [spFrameStep, spReceive_parse, hparse]
  rw [exec_spSilence_of_received fun hnone => ne_nil_of_spMinRaw_le hlen hnone.1,
    exec_spSilence_of_received fun hnone => ne_nil_of_spMinRaw_le hlen' hnone.1]
  exact congrArg Host.Outcome.next hstep

/-- Settles O35: both buffers are stripped to the same body. -/
theorem syncBytesIgnored : Obligations.SyncBytesIgnored := by
  intro s body j k hbody
  have hstrip (n : Nat) : stripSync (List.replicate n 0xFF#8 ++ body) = body := stripSync_replicate n body hbody
  refine ⟨hstrip j, fun hj hk => ?_⟩
  exact exec_spSilence_eq_of_stripSync_eq s (by simpa using hj) (by simpa using hk) ((hstrip j).trans (hstrip k).symm)

end Sys2Proof.Machine
end

section
/-! PROOFS. The command router (42_sp_parser.md R211 to R221): its three routes, and what field mode and raw mode leave
in READW. -/

namespace Sys2Proof.Machine

/-! ## The routes -/

theorem keyMatched_iff (s : State) (fnc : Byte) :
    keyMatched s fnc = true ↔ ∃ r, s.spReqFnc = some r ∧ be16 r fnc ∈ s.cfg.cmdTable := by
  unfold keyMatched
  cases s.spReqFnc with
  | none => simp
  | some r => simp [dispatchKey]

theorem rawFallback_iff (s : State) : rawFallback s = true ↔ ∃ c, s.spActive = some c ∧ hi8 c = 0xFF#8 := by
  unfold rawFallback
  cases s.spActive with
  | none => simp
  | some c =>
    simp only [Option.some.injEq, exists_eq_left']
    exact decide_eq_true_iff

theorem dispatch_matched {s : State} {fnc : Byte} (hkey : keyMatched s fnc = true) (payload : List Byte) :
    dispatch fnc payload s = fieldMode payload s :=
  if_pos hkey

theorem dispatch_raw {s : State} {fnc : Byte} (hkey : ¬keyMatched s fnc = true) (hraw : rawFallback s = true)
    (payload : List Byte) : dispatch fnc payload s = rawMode payload s :=
  (if_neg hkey).trans (if_pos hraw)

theorem dispatch_unmatched {s : State} {fnc : Byte} (hkey : ¬keyMatched s fnc = true) (hraw : ¬rawFallback s = true)
    (payload : List Byte) : dispatch fnc payload s = s.dropSp .unmatchedKey :=
  (if_neg hkey).trans (if_neg hraw)

/-- Settles O37: the routes of `dispatch`, whose two conditions are those of the statement. -/
theorem dispatchRoutes : Obligations.DispatchRoutes := by
  intro s dad sad isi fnc ext payload
  constructor
  · intro r hreq hmem
    exact congrArg _ (dispatch_matched ((keyMatched_iff s fnc).mpr ⟨r, hreq, hmem⟩) payload)
  · intro hunmatched
    have hkey : ¬keyMatched s fnc = true := by
      rw [keyMatched_iff]
      rintro ⟨r, hreq, hmem⟩
      exact hunmatched r hreq hmem
    constructor
    · intro c hactive hmode
      exact congrArg _ (dispatch_raw hkey ((rawFallback_iff s).mpr ⟨c, hactive, hmode⟩) payload)
    · intro hmode
      have hraw : ¬rawFallback s = true := by
        rw [rawFallback_iff]
        rintro ⟨c, hactive, hff⟩
        exact hmode c hactive hff
      exact congrArg _ (dispatch_unmatched hkey hraw payload)

/-- Settles O38: both rows answer the state they are given. -/
theorem nothingWritten : Obligations.NothingWritten := fun _ _ => ⟨rfl, rfl⟩

/-! ## Field mode -/

/-- The id of the extraction request is the active command's, and takes no draw (42_sp_parser.md R218). -/
theorem tagTid_of_active {s : State} {c : Word} (hactive : s.spActive = some c) :
    tagTid s = lo8 c ∧ tagDraws s = s.draws := by
  simp [tagTid, tagDraws, hactive, cmdTid]

theorem fieldMode_draws (payload : List Byte) (s : State) : (fieldMode payload s).draws = tagDraws s := by
  simp [fieldMode]

theorem fieldMode_events (payload : List Byte) (s : State) :
    (fieldMode payload s).events = s.events ++ [.tagExtract (tagTid s) payload] := by
  simp [fieldMode]

/-- Settles O39: `packFields_spec` gives the records that fit, `readw_success_reg` the registers. -/
theorem fieldModeWritesImage : Obligations.FieldModeWritesImage := by
  intro s payload
  obtain ⟨w, hw, hbank, hfits, hnext⟩ := packFields_spec s.cfg.oddPlacement
    ((segment s.cfg.rs payload).take Config.maxFields) s.bank
  refine ⟨fieldMode payload s, w, tagTid s, rfl, hw, hfits, hnext, ?_, ?_, fieldMode_events payload s,
    (fieldMode_reach payload s).rest⟩
  · intro a ha
    refine readw_success_reg s _ _ hfits ?_ hbank a ha
    rfl
  · intro c hactive
    obtain ⟨htid, hdraws⟩ := tagTid_of_active hactive
    exact ⟨htid, (fieldMode_draws payload s).trans hdraws⟩

/-! ## Raw mode -/

/-- PACK2 puts two bytes to a word, high byte first (42_sp_parser.md R220). -/
theorem getD_pack2_pair (odd : OddPlacement) (bs : List Byte) (k : Nat) (hk : 2 * k + 1 < bs.length) :
    (pack2 odd bs).getD k 0 = be16 (bs.getD (2 * k) 0) (bs.getD (2 * k + 1) 0) := by
  fun_induction pack2 odd bs generalizing k with
  | case1 => simp at hk
  | case2 b => simp at hk
  | case3 a b rest ih =>
    cases k with
    | zero => rfl
    | succ k => simpa [Nat.mul_succ] using ih k (by simp at hk; omega)

/-- The last byte of an odd number is placed as ODD_PLACEMENT says (42_sp_parser.md R220). -/
theorem getD_pack2_odd (odd : OddPlacement) (bs : List Byte) (k : Nat) (hk : 2 * k + 1 = bs.length) :
    (pack2 odd bs).getD k 0 = oddWord odd (bs.getD (2 * k) 0) := by
  fun_induction pack2 odd bs generalizing k with
  | case1 => simp at hk
  | case2 b =>
    obtain rfl : k = 0 := by simpa using hk
    rfl
  | case3 a b rest ih =>
    cases k with
    | zero => simp at hk
    | succ k => simpa [Nat.mul_succ] using ih k (by simp at hk; omega)

/-- The bytes raw mode packs: at most 192 of the payload (42_sp_parser.md R219). -/
abbrev rawBytes (payload : List Byte) : List Byte := payload.take (2 * Config.rawRegs)

theorem length_rawBytes (payload : List Byte) : (rawBytes payload).length = min payload.length 192 := by
  simp [Config.rawRegs, Nat.min_comm]

theorem getD_rawBytes (payload : List Byte) {i : Nat} (hi : i < 192) :
    (rawBytes payload).getD i 0 = payload.getD i 0 := by
  simp [Config.rawRegs, hi]

/-- The registers after raw mode (42_sp_parser.md R219, R221). -/
theorem rawMode_reg (payload : List Byte) (s : State) (a : Nat) (ha : a < 224) :
    (rawMode payload s).reg a =
      if 0x20 ≤ a ∧ a < 0x20 + (min payload.length 192 + 1) / 2 then
        (pack2 s.cfg.oddPlacement (rawBytes payload)).getD (a - 0x20) 0
      else if a = s.cfg.statusReg.val then s.successStatus
      else s.reg a := by
  have hlen := length_rawWords s.cfg.oddPlacement payload
  rw [← hlen]
  refine readw_success_reg s _ _ ?_ ?_ ?_ a ha
  · omega
  · rfl
  · rfl

/-- A register of READW that raw mode fills holds its word of the packed bytes. -/
theorem rawMode_reg_word (payload : List Byte) (s : State) {k : Nat} (hk : 2 * k + 1 ≤ min payload.length 192) :
    (rawMode payload s).reg (0x20 + k) = (pack2 s.cfg.oddPlacement (rawBytes payload)).getD k 0 := by
  rw [rawMode_reg payload s _ (by omega), if_pos (by omega), Nat.add_sub_cancel_left]

/-- Settles O40: a filled register by the two laws of PACK2, the others by `rawMode_reg`. -/
theorem rawModeWritesImage : Obligations.RawModeWritesImage := by
  intro s payload
  have hlen := length_rawBytes payload
  refine ⟨rawMode payload s, rfl, fun k hk => ?_, fun k hk => ?_, fun a ha hout => ?_, ?_⟩
  · rw [rawMode_reg_word payload s hk.le, getD_pack2_pair _ _ _ (hlen ▸ hk), getD_rawBytes _ (by omega),
      getD_rawBytes _ (by omega)]
  · rw [rawMode_reg_word payload s hk.le, getD_pack2_odd _ _ _ (hlen ▸ hk), getD_rawBytes _ (by omega)]
    cases s.cfg.oddPlacement <;> rfl
  · rw [rawMode_reg payload s a ha, if_neg (by omega)]
  · exact (success_eq _).1

end Sys2Proof.Machine
end

section
/-! PROOFS. The records of a payload and the spans of a record (42_sp_parser.md R215). -/

namespace Sys2Proof.Machine

/-! ## SEGMENT -/

/-- No record holds the separator, if the one being collected holds none yet. -/
theorem notMem_of_mem_segmentGo {rs : Byte} {cur : List Byte} (hcur : rs ∉ cur) (p : List Byte) :
    ∀ r ∈ segmentGo rs cur p, rs ∉ r := by
  induction p generalizing cur with
  | nil =>
    rw [segmentGo]
    split
    · simp
    · simpa using hcur
  | cons b bs ih =>
    rw [segmentGo]
    split
    · simpa [hcur] using ih List.not_mem_nil
    · rename_i hb
      exact ih (by simpa [hcur] using Ne.symm hb)

/-- The records, a separator after each, are what was collected and the bytes to come, with one separator more where
they do not end in one (42_sp_parser.md R215). -/
theorem flatMap_segmentGo {rs : Byte} {cur : List Byte} (hcur : rs ∉ cur) (p : List Byte) :
    ((segmentGo rs cur p).flatMap fun r => r ++ [rs]) = cur ++ p ∨
      (cur ++ p ≠ [] ∧ (cur ++ p).getLast? ≠ some rs ∧
        ((segmentGo rs cur p).flatMap fun r => r ++ [rs]) = cur ++ p ++ [rs]) := by
  induction p generalizing cur with
  | nil =>
    rw [segmentGo, List.append_nil]
    split
    · rename_i hnil
      exact .inl hnil.symm
    · rename_i hne
      exact .inr ⟨hne, fun hlast => hcur (List.mem_of_getLast? hlast), by simp⟩
  | cons b bs ih =>
    rw [segmentGo]
    split
    · subst b
      obtain hrest | ⟨hne, hlast, hrest⟩ := ih List.not_mem_nil
      · exact .inl (by simp [hrest])
      · refine .inr ⟨by simp, ?_, by simp [hrest]⟩
        rw [List.append_cons, List.getLast?_append_of_ne_nil (l₂ := bs) _ hne]
        exact hlast
    · rename_i hb
      have hcur' : rs ∉ cur ++ [b] := by simpa [hcur] using Ne.symm hb
      simpa only [List.append_assoc, List.singleton_append] using ih hcur'

/-! ## SUBFIELDS -/

theorem ht_notMem_splitHt (r : List Byte) : Config.ht ∉ (splitHt r).1 := fun hmem => by
  simpa using List.mem_takeWhile_imp hmem

/-- A record either holds no HT and is one span, or is its first span, an HT, and the rest. -/
theorem splitHt_cases (r : List Byte) :
    (r = (splitHt r).1 ∧ (splitHt r).2 = []) ∨ r = (splitHt r).1 ++ [Config.ht] ++ (splitHt r).2 := by
  induction r with
  | nil => exact .inl ⟨rfl, rfl⟩
  | cons b r ih =>
    by_cases hb : b = Config.ht
    · subst hb
      exact .inr rfl
    · have hsplit : splitHt (b :: r) = (b :: (splitHt r).1, (splitHt r).2) := by simp [splitHt, hb]
      rw [hsplit]
      obtain ⟨hall, hrest⟩ | hall := ih
      · exact .inl ⟨congrArg (b :: ·) hall, hrest⟩
      · exact .inr (congrArg (b :: ·) hall)

theorem subfields_eq (r : List Byte) :
    subfields r = ((splitHt r).1, (splitHt (splitHt r).2).1, (splitHt (splitHt r).2).2) := rfl

/-- Settles O41: SEGMENT from the empty record, SUBFIELDS by a split of the record and one of what follows. -/
theorem recordsAndSpans : Obligations.RecordsAndSpans := by
  refine ⟨fun rs p => ⟨notMem_of_mem_segmentGo List.not_mem_nil p, flatMap_segmentGo List.not_mem_nil p⟩, fun r => ?_⟩
  rw [subfields_eq]
  refine ⟨ht_notMem_splitHt r, ht_notMem_splitHt _, ?_⟩
  obtain ⟨hvalue, hnone⟩ | hvalue := splitHt_cases r
  · rw [hnone]
    exact .inl ⟨hvalue, rfl⟩
  obtain ⟨hunits, hnone⟩ | hunits := splitHt_cases (splitHt r).2
  · exact .inr (.inl ⟨hunits ▸ hvalue, hnone⟩)
  · have hspans := hvalue.trans (congrArg ((splitHt r).1 ++ [Config.ht] ++ ·) hunits)
    exact .inr (.inr (by simpa only [List.append_assoc] using hspans))

end Sys2Proof.Machine
end

section
/-! PROOFS. Link A's framer (43_modbus.md R250 to R258): a silence after something was received is the frame step of the
buffer, whose receive checks drop in silence and whose good request frames are the request rows. -/

namespace Sys2Proof.Machine

/-! ## The framer -/

/-- Settles O16: the two cases of `framerByte`. -/
theorem mbRxByteBuffers : Obligations.MbRxByteBuffers := by
  intro s b
  have hexec : exec (.mbRxByte b) s = .next { s with mbBuf := framerByte s.cfg.mbBufMax s.mbBuf b } := rfl
  rw [hexec, framerByte]
  exact ⟨fun hfull => by rw [if_pos hfull], fun hroom => by rw [if_neg hroom]⟩

/-- Settles O17: the idle branch of the row. -/
theorem mbSilenceIdle : Obligations.MbSilenceIdle := fun _ hidle => congrArg Host.Outcome.next (if_pos hidle)

/-- The frame step runs on the emptied state wherever a byte was received (43_modbus.md R254). -/
theorem exec_mbSilence_of_received {s : State} (hrecv : s.mbBuf ≠ []) :
    exec .mbSilence s = .next (mbFrameStep s.mbBuf s.mbEmptied) := congrArg Host.Outcome.next (if_neg hrecv)

/-- Settles O20: the frame step sends at most one frame and leaves the emptied buffer alone (`MbReach`). -/
theorem mbSilenceOneFrame : Obligations.MbSilenceOneFrame := by
  intro s
  by_cases hidle : s.mbBuf = []
  · exact ⟨s, mbSilenceIdle s hidle, hidle, .inl rfl⟩
  · have hreach := mbFrameStep_reach s.mbBuf s.mbEmptied
    exact ⟨_, exec_mbSilence_of_received hidle, by rw [hreach.rest]; rfl, hreach.sent⟩

/-! ## The receive checks -/

theorem abandonMb_silent {e : MbError} (hsilent : mbErrorResponse e = none) (s : State) (f : List Byte) :
    s.abandonMb f e = s := by
  rw [State.abandonMb, hsilent]

/-- A frame passes the receive checks where it is long enough, for this slave and has a right CRC (R255 to R257). -/
theorem mbFrameError_eq_none_iff (cfg : Params) (f : List Byte) :
    mbFrameError cfg f = none ↔ 4 ≤ f.length ∧ byteAt f 0 = cfg.mbSlaveAddr ∧ crcMbPasses f = true := by
  unfold mbFrameError
  split
  · simp_all [Config.mbMinLen]
  · split
    · simp_all
    · split <;> simp_all [Config.mbMinLen]

/-- No receive check has a response (60_exceptions.md R402). -/
theorem mbErrorResponse_of_mbFrameError {cfg : Params} {f : List Byte} {e : MbError}
    (h : mbFrameError cfg f = some e) : mbErrorResponse e = none := by
  unfold mbFrameError at h
  split at h
  · cases h; rfl
  · split at h
    · cases h; rfl
    · split at h
      · cases h; rfl
      · cases h

theorem exec_mbSilence_of_mbFrameError {s : State} (hfails : mbFrameError s.cfg s.mbBuf ≠ none) :
    exec .mbSilence s = .next s.mbEmptied := by
  by_cases hidle : s.mbBuf = []
  · rw [mbSilenceIdle s hidle, State.mbEmptied, ← hidle]
  · obtain ⟨e, he⟩ := Option.ne_none_iff_exists'.mp hfails
    have he' : mbFrameError s.mbEmptied.cfg s.mbBuf = some e := he
    rw [exec_mbSilence_of_received hidle, mbFrameStep, he']
    exact congrArg Host.Outcome.next (abandonMb_silent (mbErrorResponse_of_mbFrameError he) _ _)

/-- Settles O18: each case fails one of the three receive checks. -/
theorem mbSilentDrops : Obligations.MbSilentDrops := by
  intro s
  have hdrop (hfails : ¬ (4 ≤ s.mbBuf.length ∧ byteAt s.mbBuf 0 = s.cfg.mbSlaveAddr ∧ crcMbPasses s.mbBuf)) :
      exec .mbSilence s = .next s.mbEmptied :=
    exec_mbSilence_of_mbFrameError (mt (mbFrameError_eq_none_iff _ _).mp hfails)
  refine ⟨fun hshort => hdrop ?_, fun _ haddr => hdrop ?_, fun _ hcrc => hdrop ?_⟩
  · rintro ⟨hlen, -, -⟩
    exact Nat.not_le.mpr hshort hlen
  · rintro ⟨-, hslave, -⟩
    exact haddr hslave
  · rintro ⟨-, -, hpasses⟩
    exact hcrc (of_decide_eq_true hpasses)

/-! ## Request rows by the address byte -/

theorem forSlave_thisSlave {s : State} {addr : Byte} (haddr : addr = s.cfg.mbSlaveAddr)
    (op : List Byte → State → State) (fc : Byte) (data : List Byte) :
    forSlave (requestFrame addr fc data) op s = op (requestFrame addr fc data) s :=
  (forSlave_requestFrame s op addr fc data).trans (if_pos haddr)

theorem forSlave_otherSlave {s : State} {addr : Byte} (haddr : addr ≠ s.cfg.mbSlaveAddr)
    (op : List Byte → State → State) (fc : Byte) (data : List Byte) :
    forSlave (requestFrame addr fc data) op s = s :=
  (forSlave_requestFrame s op addr fc data).trans (if_neg haddr)

/-- Settles O28: all four rows are `forSlave` of their operation. -/
theorem otherSlaveIgnored : Obligations.OtherSlaveIgnored := by
  intro s addr fc data haddr
  have hignored (op : List Byte → State → State) (fc' : Byte) :
      (.next (forSlave (requestFrame addr fc' data) op s) : Host.Outcome State Fault Refusal) = .next s :=
    congrArg Host.Outcome.next (forSlave_otherSlave haddr op fc' data)
  exact ⟨hignored fc03 0x03#8, hignored fc06 0x06#8, hignored fc10 0x10#8, hignored mbIllegal fc⟩

/-- A silence after a request frame is the operation its function code dispatches to, for the slave of its address byte
(43_modbus.md R258). -/
theorem exec_mbSilence_requestFrame {s : State} {addr fc : Byte} {data : List Byte} {op : List Byte → State → State}
    (hbuf : s.mbBuf = requestFrame addr fc data)
    (hop : mbFunction (requestFrame addr fc data) s.mbEmptied = op (requestFrame addr fc data) s.mbEmptied) :
    exec .mbSilence s = .next (forSlave (requestFrame addr fc data) op s.mbEmptied) := by
  have hrecv : s.mbBuf ≠ [] := hbuf ▸ List.cons_ne_nil _ _
  rw [exec_mbSilence_of_received hrecv, hbuf, mbFrameStep_requestFrame, forSlave_requestFrame, hop]

theorem mbFunction_illegal {fc : Byte} (h3 : fc ≠ 0x03#8) (h6 : fc ≠ 0x06#8) (h10 : fc ≠ 0x10#8) (addr : Byte)
    (data : List Byte) (s : State) :
    mbFunction (requestFrame addr fc data) s = mbIllegal (requestFrame addr fc data) s := by
  rw [mbFunction, byteAt_requestFrame_one, decodeFunction_other h3 h6 h10]

/-- Settles O19: the function dispatch of each row's frame is the row's own operation. -/
theorem mbSilenceRunsRequest : Obligations.MbSilenceRunsRequest := by
  rintro s i addr data (rfl | rfl | rfl | ⟨fc, h3, h6, h10, rfl⟩) hbuf
  · exact exec_mbSilence_requestFrame hbuf rfl
  · exact exec_mbSilence_requestFrame hbuf rfl
  · exact exec_mbSilence_requestFrame hbuf rfl
  · exact exec_mbSilence_requestFrame hbuf (mbFunction_illegal h3 h6 h10 addr data _)

/-! ## Exception responses -/

/-- Settles O29: byte 1 of the frame is the function code with bit 7 set (`exceptionFc_fcLow`). -/
theorem exceptionResponse : Obligations.ExceptionResponse := by
  intro s addr fc code
  have hfc : exceptionFc (fc.setWidth 7) = fc ||| 0x80#8 := exceptionFc_fcLow fc
  rw [← hfc]
  exact ⟨rfl, rfl, rfl, rfl⟩

/-- A request abandoned with an exception code is answered with it (60_exceptions.md R401). -/
theorem exec_answers {i : Instr} {s : State} {addr fc : Byte} {data : List Byte} {e : MbError} {code : MbExc}
    (hexec : exec i s = .next (s.abandonMb (requestFrame addr fc data) e)) (hcode : mbErrorResponse e = some code) :
    exec i s = .next (s.answered (withCrcMb [addr, fc ||| 0x80#8, excByte code])) := by
  rw [hexec, abandonMb_requestFrame, hcode]

/-- A request abandoned without an exception code is dropped (60_exceptions.md R402). -/
theorem exec_drops {i : Instr} {s : State} {f : List Byte} {e : MbError}
    (hexec : exec i s = .next (s.abandonMb f e)) (hsilent : mbErrorResponse e = none) : exec i s = .next s := by
  rw [hexec, abandonMb_silent hsilent]

/-- Settles O27: the row abandons the frame with exception 0x01, whatever its data. -/
theorem illegalFunctionAnswers : Obligations.IllegalFunctionAnswers := by
  intro s addr fc data haddr _ _ _
  have hexec : exec (.mbIllegal addr fc data) s = .next (s.abandonMb (requestFrame addr fc data) .illegalFunction) :=
    congrArg Host.Outcome.next (forSlave_thisSlave haddr mbIllegal fc data)
  exact (exec_answers hexec rfl :)

end Sys2Proof.Machine
end

section
/-! PROOFS. The function operations of link A (43_modbus.md R261 to R274): each one's checks as a chain over the operands
of its request, and what it does once they pass. -/

namespace Sys2Proof.Machine

/-! ## Requests of two words -/

/-- The operands of a 0x03 or 0x06 request (30_encoding.md R102, R103). -/
theorem fieldAt_requestFrame_twoWords (addr fc : Byte) (x y : Word) :
    fieldAt (requestFrame addr fc (wordBytes x ++ wordBytes y)) 2 = x ∧
      fieldAt (requestFrame addr fc (wordBytes x ++ wordBytes y)) 4 = y := fieldAt_twoWords addr fc x y

theorem length_requestFrame_ne_eight {data : List Byte} (hlen : data.length ≠ 4) (addr fc : Byte) :
    (requestFrame addr fc data).length ≠ 8 := by
  rw [length_requestFrame]
  omega

/-! ## Function 0x03 -/

/-- FC03's checks on a request of the right length (43_modbus.md R262, R263). -/
theorem fc03Error_requestFrame (addr fc : Byte) (start qty : Word) :
    fc03Error (requestFrame addr fc (wordBytes start ++ wordBytes qty)) =
      if start.toNat + qty.toNat > 224 then some .illegalAddress
      else if qty.toNat = 0 ∨ qty.toNat > 125 then some .illegalValue
      else none := by
  obtain ⟨hstart, hqty⟩ := fieldAt_requestFrame_twoWords addr fc start qty
  rw [fc03Error, hstart, hqty]
  exact if_neg (by simp)

theorem exec_mbFc03_of_error {s : State} {addr : Byte} {data : List Byte} {e : MbError}
    (haddr : addr = s.cfg.mbSlaveAddr) (herr : fc03Error (requestFrame addr 0x03#8 data) = some e) :
    exec (.mbFc03 addr data) s = .next (s.abandonMb (requestFrame addr 0x03#8 data) e) := by
  rw [exec, execMbFc03, forSlave_thisSlave haddr, fc03, herr]

theorem exec_mbFc03_of_ok {s : State} {addr : Byte} {start qty : Word} (haddr : addr = s.cfg.mbSlaveAddr)
    (hok : fc03Error (requestFrame addr 0x03#8 (wordBytes start ++ wordBytes qty)) = none) :
    exec (.mbFc03 addr (wordBytes start ++ wordBytes qty)) s =
      .next (s.answered (fc03Frame addr (memRead s.bank start.toNat qty.toNat))) := by
  obtain ⟨hstart, hqty⟩ := fieldAt_requestFrame_twoWords addr 0x03#8 start qty
  rw [exec, execMbFc03, forSlave_thisSlave haddr, fc03, hok, hstart, hqty]
  rfl

/-- The 0x03 response to a read of the bank (30_encoding.md R105). -/
theorem fc03Frame_memRead (s : State) (addr : Byte) (a n : Nat) :
    fc03Frame addr (memRead s.bank a n) =
      withCrcMb ([addr, 0x03#8, BitVec.ofNat 8 (2 * n)] ++
        (List.range n).flatMap fun k => [hi8 (s.reg (a + k)), lo8 (s.reg (a + k))]) := by
  rw [fc03Frame, length_memRead, memRead, wordsBytes, List.flatMap_map]
  rfl

/-- Settles O22: another length fails FC03's first check, the windows and quantities its second and third. -/
theorem fc03Refusals : Obligations.Fc03Refusals := by
  intro s addr haddr
  refine ⟨fun data hlen => ?_, fun start qty => ⟨fun hrange => ?_, fun hrange hqty => ?_⟩⟩
  · have herr : fc03Error _ = some .badLength := if_pos (length_requestFrame_ne_eight hlen addr 0x03#8)
    exact (exec_drops (exec_mbFc03_of_error haddr herr) rfl :)
  · have herr := (fc03Error_requestFrame addr 0x03#8 start qty).trans (if_pos hrange)
    exact (exec_answers (exec_mbFc03_of_error haddr herr) rfl :)
  · have herr := (fc03Error_requestFrame addr 0x03#8 start qty).trans
      ((if_neg (Nat.not_lt.mpr hrange)).trans (if_pos (hqty.imp_left (congrArg BitVec.toNat))))
    exact (exec_answers (exec_mbFc03_of_error haddr herr) rfl :)

/-- Settles O21: a window that passes the checks is read (`fc03Frame_memRead`); 0xDF and two more is one of O22's. -/
theorem fc03Reads : Obligations.Fc03Reads := by
  intro s addr haddr
  refine ⟨fun start qty hrange hmin hmax => ?_, ?_⟩
  · have hok := (fc03Error_requestFrame addr 0x03#8 start qty).trans
      ((if_neg (Nat.not_lt.mpr hrange)).trans (if_neg (by omega)))
    rw [exec_mbFc03_of_ok haddr hok, fc03Frame_memRead]
  · exact ((fc03Refusals s addr haddr).2 0x00DF#16 0x0002#16).1 (by decide)

/-! ## Function 0x06 -/

/-- FC06's check on a request of the right length (43_modbus.md R266). -/
theorem fc06Error_requestFrame (addr fc : Byte) (reg val : Word) :
    fc06Error (requestFrame addr fc (wordBytes reg ++ wordBytes val)) =
      if inReadw reg.toNat ∨ reg.toNat ≥ 224 then some .illegalAddress else none := by
  rw [fc06Error, (fieldAt_requestFrame_twoWords addr fc reg val).1]
  exact if_neg (by simp)

theorem exec_mbFc06_of_error {s : State} {addr : Byte} {data : List Byte} {e : MbError}
    (haddr : addr = s.cfg.mbSlaveAddr) (herr : fc06Error (requestFrame addr 0x06#8 data) = some e) :
    exec (.mbFc06 addr data) s = .next (s.abandonMb (requestFrame addr 0x06#8 data) e) := by
  rw [exec, execMbFc06, forSlave_thisSlave haddr, fc06, herr]

theorem exec_mbFc06_of_ok {s : State} {addr : Byte} {reg val : Word} (haddr : addr = s.cfg.mbSlaveAddr)
    (hok : fc06Error (requestFrame addr 0x06#8 (wordBytes reg ++ wordBytes val)) = none) :
    exec (.mbFc06 addr (wordBytes reg ++ wordBytes val)) s =
      .next ((persistCheck reg.toNat val (s.setReg reg.toNat val)).answered
        (requestFrame addr 0x06#8 (wordBytes reg ++ wordBytes val))) := by
  obtain ⟨hreg, hval⟩ := fieldAt_requestFrame_twoWords addr 0x06#8 reg val
  rw [exec, execMbFc06, forSlave_thisSlave haddr, fc06, hok, hreg, hval]
  rfl

/-- PERSIST_CHECK adds the record of the address's index, where it has one, and nothing else (43_modbus.md R268). -/
theorem persistCheck_eq (reg : Nat) (val : Word) (s : State) :
    persistCheck reg val s =
      { s with events := s.events ++ (s.cfg.persist.lookup reg).toList.map (Event.persist · val) } := by
  obtain ⟨hnone, hcheck⟩ | ⟨index, hsome, hcheck⟩ := persistCheck_cases reg val s
  · simp [hcheck, hnone]
  · simp [hcheck, hsome, State.record]

/-- Settles O24: another length fails FC06's first check, an address outside CTRL and WRITEW its second. -/
theorem fc06Refusals : Obligations.Fc06Refusals := by
  intro s addr haddr
  refine ⟨fun data hlen => ?_, fun reg val hreg => ?_⟩
  · have herr : fc06Error _ = some .badLength := if_pos (length_requestFrame_ne_eight hlen addr 0x06#8)
    exact (exec_drops (exec_mbFc06_of_error haddr herr) rfl :)
  · have herr := (fc06Error_requestFrame addr 0x06#8 reg val).trans (if_pos hreg)
    exact (exec_answers (exec_mbFc06_of_error haddr herr) rfl :)

/-- Settles O23: the store is read back by the law of the Register Bank, the record by `persistCheck_eq`. -/
theorem fc06Writes : Obligations.Fc06Writes := by
  intro s addr reg val haddr hreg
  have hlt : reg.toNat < 224 := by rcases hreg with h | h <;> omega
  have hok := (fc06Error_requestFrame addr 0x06#8 reg val).trans (if_neg (by omega))
  have hexec := exec_mbFc06_of_ok haddr hok
  rw [persistCheck_eq] at hexec
  have hread (a : Nat) := s.reg_setReg reg.toNat a val hlt
  refine ⟨_, hexec, fun a _ => hread a, fun hcmd => ?_, fun index hsome => ?_, fun hnone => ?_, rfl, rfl⟩
  · exact (hread _).trans (if_pos hcmd.symm)
  · simp [State.answered, hsome]
  · simp [State.answered, hnone]

/-! ## Function 0x10 -/

/-- FC10's checks on a request that holds a byte count (43_modbus.md R270 to R272). -/
theorem fc10Error_requestFrame (addr fc : Byte) (start qty : Word) (bc : Byte) (data : List Byte) :
    fc10Error (requestFrame addr fc (wordBytes start ++ (wordBytes qty ++ bc :: data))) =
      if bc.toNat ≠ 2 * qty.toNat ∨ qty.toNat = 0 ∨ qty.toNat > 123 then some .illegalValue
      else if data.length ≠ bc.toNat then some .illegalValue
      else if start.toNat < 0x20 ∨ start.toNat + qty.toNat > 224 then some .illegalAddress
      else none := by
  have hlen : (requestFrame addr fc (wordBytes start ++ (wordBytes qty ++ bc :: data))).length = 9 + data.length := by
    simp
    omega
  rw [fc10Error, fieldAt_requestFrame_two, fieldAt_requestFrame_four, byteAt_requestFrame_six, hlen]
  simp only [ne_eq, Nat.add_left_cancel_iff]
  exact if_neg (by omega)

theorem exec_mbFc10_of_error {s : State} {addr : Byte} {data : List Byte} {e : MbError}
    (haddr : addr = s.cfg.mbSlaveAddr) (herr : fc10Error (requestFrame addr 0x10#8 data) = some e) :
    exec (.mbFc10 addr data) s = .next (s.abandonMb (requestFrame addr 0x10#8 data) e) := by
  rw [exec, execMbFc10, forSlave_thisSlave haddr, fc10, herr]

theorem exec_mbFc10_of_ok {s : State} {addr : Byte} {start qty : Word} {bc : Byte} {data : List Byte}
    (haddr : addr = s.cfg.mbSlaveAddr) (hdata : data.length = bc.toNat)
    (hok : fc10Error (requestFrame addr 0x10#8 (wordBytes start ++ (wordBytes qty ++ bc :: data))) = none) :
    exec (.mbFc10 addr (wordBytes start ++ (wordBytes qty ++ bc :: data))) s =
      .next ({ s.setRegs start.toNat (dataWords data) with
        mbActualLen := BitVec.ofNat 16 (Config.padDiscount data) }.answered (fc10Frame addr start qty)) := by
  rw [exec, execMbFc10, forSlave_thisSlave haddr, fc10, hok, fieldAt_requestFrame_two, fieldAt_requestFrame_four,
    fc10Data_requestFrame _ _ _ _ _ _ hdata]
  rfl

/-- Settles O26: each clause fails one of FC10's checks, in their order. -/
theorem fc10Refusals : Obligations.Fc10Refusals := by
  intro s addr haddr
  refine ⟨fun data hlen => ?_, fun start qty bc data => ?_⟩
  · have herr : fc10Error (requestFrame addr 0x10#8 data) = some .badLength := if_pos (by
      rw [length_requestFrame]
      omega)
    exact (exec_drops (exec_mbFc10_of_error haddr herr) rfl :)
  have hchecks := fc10Error_requestFrame addr 0x10#8 start qty bc data
  refine ⟨fun hcount => ?_, fun hbc hmin hmax hdata => ?_, fun hbc hmin hmax hdata hwindow => ?_⟩
  · have herr := hchecks.trans (if_pos (hcount.imp_right (Or.imp_left (congrArg BitVec.toNat))))
    exact (exec_answers (exec_mbFc10_of_error haddr herr) rfl :)
  · have herr := hchecks.trans ((if_neg (by omega)).trans (if_pos hdata))
    exact (exec_answers (exec_mbFc10_of_error haddr herr) rfl :)
  · have herr := hchecks.trans ((if_neg (by omega)).trans ((if_neg (not_not_intro hdata)).trans (if_pos hwindow)))
    exact (exec_answers (exec_mbFc10_of_error haddr herr) rfl :)

theorem toNat_ofNat_of_lt {n w : Nat} (h : n < 2 ^ w) : (BitVec.ofNat w n).toNat = n :=
  (BitVec.toNat_ofNat n w).trans (Nat.mod_eq_of_lt h)

/-- Settles O25: the words written out are the words stored (`dataWords_wordsBytes`), read back by the law of the
Register Bank; padDiscount's law keeps the actual byte count in its register. -/
theorem fc10Writes : Obligations.Fc10Writes := by
  intro s addr start ws haddr hmin hmax hlo hhi
  have hqty : (BitVec.ofNat 16 ws.length).toNat = ws.length := toNat_ofNat_of_lt (by omega)
  have hbc : (BitVec.ofNat 8 (2 * ws.length)).toNat = 2 * ws.length := toNat_ofNat_of_lt (by omega)
  have hdata : (wordsBytes ws).length = (BitVec.ofNat 8 (2 * ws.length)).toNat := by rw [hbc, length_wordsBytes]
  have hpad : Config.padDiscount (wordsBytes ws) ≤ 2 * ws.length := by
    simpa using padDiscount_le (wordsBytes ws)
  have hactual : (BitVec.ofNat 16 (Config.padDiscount (wordsBytes ws))).toNat = Config.padDiscount (wordsBytes ws) :=
    toNat_ofNat_of_lt (by omega)
  have hok := (fc10Error_requestFrame addr 0x10#8 start (BitVec.ofNat 16 ws.length) (BitVec.ofNat 8 (2 * ws.length))
    (wordsBytes ws)).trans
      ((if_neg (by omega)).trans ((if_neg (not_not_intro hdata)).trans (if_neg (by omega))))
  have hexec := exec_mbFc10_of_ok haddr hdata hok
  rw [dataWords_wordsBytes] at hexec
  exact ⟨_, hexec, fun a _ => s.reg_setRegs start.toNat a ws hhi, hactual, hactual.trans_le hpad, rfl, rfl⟩

end Sys2Proof.Machine
end

section
/-! PROOFS. Deliveries that no row stands for (60_exceptions.md R400): which errors each decoder gives, and what the step
makes of them. -/

namespace Sys2Proof.Machine

/-! ## The errors of the decoder -/

/-- The error of a link-A frame delivered whole is its length or its CRC; no address is judged there (43_modbus.md R255,
R257). -/
theorem decodeFramed_mbFrame {f : List Byte} {m : MbError} (h : decodeFramed f = .error (.mbFrame m)) :
    m = .tooShort ∨ m = .badCrc := by
  unfold decodeFramed at h
  split at h
  · cases h
  · split at h
    · cases h; exact .inl rfl
    · split at h
      · cases h; exact .inr rfl
      · dsimp only at h
        split at h <;> cases h

theorem decodeResponse_ne_mbFrame (f : List Byte) (m : MbError) : decodeResponse f ≠ .error (.mbFrame m) := by
  unfold decodeResponse decodeFc03Rsp
  intro h
  dsimp only at h
  repeat' split at h
  all_goals cases h

theorem decodeToken_ne_mbFrame (bytes : List Byte) (m : MbError) : decodeToken bytes ≠ .error (.mbFrame m) := by
  unfold decodeToken
  split <;> nofun

theorem decodeSpFrame_ne_mbFrame (raw : List Byte) (m : MbError) : decodeSpFrame raw ≠ .error (.mbFrame m) := by
  unfold decodeSpFrame
  split
  · nofun
  · split
    · nofun
    · split <;> nofun

theorem decodeTemplateWrite_ne_mbFrame (nsb idb : Byte) (record : List Byte) (m : MbError) :
    decodeTemplateWrite nsb idb record ≠ .error (.mbFrame m) := by
  unfold decodeTemplateWrite
  split
  · nofun
  · split
    · split <;> nofun
    · nofun

theorem bankAddr_elim_ne_mbFrame (a : Byte) (row : Fin 224 → Instr) (m : MbError) :
    (bankAddr a).elim (.error .badOperands) (fun a => .ok (row a)) ≠
      (.error (.mbFrame m) : Except DecodeError Instr) := by
  cases bankAddr a <;> nofun

/-- Only the request decoder of link A gives a link-A frame error; the kinds `cases` leaves are those whose decoder looks
further than the number of operand bytes. -/
theorem decode_mbFrame {p : Packet} {m : MbError} (h : decode p = .error (.mbFrame m)) :
    m = .tooShort ∨ m = .badCrc := by
  unfold decode at h
  split at h
  all_goals try cases h
  · exact decodeFramed_mbFrame h
  · exact absurd h (decodeResponse_ne_mbFrame _ m)
  · exact absurd h (decodeToken_ne_mbFrame _ m)
  · exact absurd h (decodeSpFrame_ne_mbFrame _ m)
  · split at h <;> cases h
  · exact absurd h (bankAddr_elim_ne_mbFrame _ _ m)
  · exact absurd h (bankAddr_elim_ne_mbFrame _ _ m)
  · exact absurd h (decodeTemplateWrite_ne_mbFrame _ _ _ m)

/-! ## The step on such a delivery -/

theorem step_of_decode_error {s : State} {p : Packet} {rest : List Packet} {e : DecodeError}
    (hinbox : s.inbox = p :: rest) (hdecode : decode p = .error e) :
    step s = .next (rejectPacket p e { s with inbox := rest }) := by
  simp only [step, stepInbox, stepPacket, hinbox, hdecode]

/-- Settles O4: each error's effect is `rejectPacket`'s; the receive checks of link A have no response, a token stream
leaves its last value (`runTokens_eq`), and an over-long frame is decoded from what its framer keeps. -/
theorem stepAbandonsFaultyFrame : Obligations.StepAbandonsFaultyFrame := by
  refine ⟨fun s p rest e hinbox hdecode => ?_, fun s k rest hkind hinbox => ?_, fun f hlen => ?_⟩
  · have hstep := step_of_decode_error hinbox hdecode
    refine ⟨?_, ?_, ?_, ?_⟩
    · rintro m rfl
      have hsilent : mbErrorResponse m = none := by obtain rfl | rfl := decode_mbFrame hdecode <;> rfl
      exact hstep.trans (congrArg Host.Outcome.next (abandonMb_silent hsilent _ _))
    · rintro m rfl
      exact hstep
    · rintro rfl
      exact hstep.trans (congrArg Host.Outcome.next (runTokens_eq _ _))
    · rintro (rfl | rfl | rfl) <;> exact hstep
  · have hdecode : decode ⟨k, []⟩ = .error .nothingReceived := by obtain rfl | rfl := hkind <;> rfl
    exact step_of_decode_error hinbox hdecode
  · exact congrArg decodeFramed (framed_overflow 256 f hlen)

end Sys2Proof.Machine
end

section
/-! PROOFS. The SP link (44_sp_link.md): the receive drain beside the active command, ISSUE by what RESOLVE and BUILD
answer, and the two events that issue a command. -/

namespace Sys2Proof.Machine

/-! ## The receive drain -/

/-- Settles O31: the two branches of the row; the silence after an overflow is the one of O32. -/
theorem spRxByteBuffers : Obligations.SpRxByteBuffers := by
  intro s b
  refine ⟨fun hroom => congrArg Host.Outcome.next (if_pos hroom), fun hfull => ⟨?_, ?_⟩⟩
  · exact congrArg Host.Outcome.next (if_neg (Nat.not_lt.mpr hfull))
  · obtain ⟨-, hreport, -⟩ := spSilenceEarlyExits { s with spOvf := true }
    exact hreport rfl

/-- A silence drains the buffer, and from there reaches what the SP engine reaches on receive (42_sp_parser.md R200). -/
theorem exec_spSilence_reach (s : State) : ∃ t, exec .spSilence s = .next t ∧ SpReach s.drained t := by
  by_cases hnone : s.spRx = [] ∧ s.spOvf = false
  · exact ⟨s.drained, by rw [exec, execSpSilence_eq, if_pos hnone], .refl _⟩
  · exact ⟨_, exec_spSilence_of_received hnone, spFrameStep_reach _ _ _⟩

/-- Settles O48: none of these fields is in the SP engine's reach on receive. -/
theorem responseKeepsCommand : Obligations.ResponseKeepsCommand := by
  intro s
  obtain ⟨t, hexec, hreach⟩ := exec_spSilence_reach s
  refine ⟨t, hexec, ?_⟩
  rw [hreach.rest]
  exact ⟨rfl, rfl, rfl, rfl, rfl, rfl, rfl⟩

/-! ## ISSUE -/

/-- Both command rows issue their command word (44_sp_link.md R302, 30_encoding.md R119). -/
theorem exec_commandRow {i : Instr} {mode tid : Byte}
    (hi : i = .cmdIssue mode tid ∨ (mode = 0xFF#8 ∧ i = .cmdIssueRaw tid)) (s : State) :
    exec i s = .next (issue (be16 mode tid) s) := by
  obtain rfl | ⟨rfl, rfl⟩ := hi <;> rfl

theorem afterResolve_of_lt (s : State) {tid : Byte} (htid : tid.toNat < 42) : afterResolve s tid = s.drawn :=
  if_pos htid

/-- A StorageError ends ISSUE with nothing but the draw of the read (44_sp_link.md R303). -/
theorem issue_of_error {s : State} {c : Word} (hresolve : ∃ e, resolve s (cmdTid c) = .error e) :
    issue c s = afterResolve s (cmdTid c) := by
  obtain ⟨e, he⟩ := hresolve
  simp only [issue, he, State.dropSp_eq]

/-- An id over 41 reads no template and takes no draw (44_sp_link.md R303). -/
theorem issue_of_idOutOfRange {s : State} {c : Word} (htid : 41 < (cmdTid c).toNat) : issue c s = s := by
  have hout : ¬(cmdTid c).toNat < 42 := by omega
  rw [issue_of_error (resolve_error s _ fun hlt => absurd hlt hout), afterResolve, if_neg hout]

/-- A request that fits SP_TX_MAX is sent (44_sp_link.md R304, R306). -/
theorem issue_of_fits {s : State} {c : Word} {payload : List Byte} (hresolve : resolve s (cmdTid c) = .ok payload)
    (hfits : (stuffBytes (requestBody s.cfg payload)).length ≤ s.cfg.spTxMax - 4) :
    issue c s = sendRequest c payload
      ([Config.sync, Config.sync] ++ stuffBytes (requestBody s.cfg payload) ++ crcSpField (requestBody s.cfg payload))
      (afterResolve s (cmdTid c)) := by
  simp only [issue, hresolve, buildRequest_some _ _ hfits]

/-- A request that does not fit is abandoned (44_sp_link.md R305). -/
theorem issue_of_capacity {s : State} {c : Word} {payload : List Byte} (hresolve : resolve s (cmdTid c) = .ok payload)
    (hlong : s.cfg.spTxMax - 4 < (stuffBytes (requestBody s.cfg payload)).length) :
    issue c s = (afterResolve s (cmdTid c)).abandonSp .requestTooLong := by
  simp only [issue, hresolve, buildRequest_none _ _ hlong]

/-- `resolve_ok` for a command word, with the payload as the bytes that follow LEN (30_encoding.md R121). -/
theorem resolve_be16_ok {s : State} (mode : Byte) {tid : Byte} (htid : tid.toNat < 42) (hread : s.readFails = false)
    (hlen : ((s.template .req ⟨tid.toNat, htid⟩).getD 0 0).toNat ≤ 95) :
    resolve s (cmdTid (be16 mode tid)) = .ok (((s.template .req ⟨tid.toNat, htid⟩).drop 1).take
      ((s.template .req ⟨tid.toNat, htid⟩).getD 0 0).toNat) := by
  rw [cmdTid_be16, List.take_drop]
  exact resolve_ok s tid htid hread hlen

/-- Settles O44: the template resolves (`resolve_be16_ok`) and the request fits, so ISSUE sends it. -/
theorem issueSendsRequest : Obligations.IssueSendsRequest := by
  rintro s i mode tid htid _ payload _ hi hread rfl hlen rfl rfl hfits
  rw [exec_commandRow hi, issue_of_fits (resolve_be16_ok mode htid hread hlen) hfits, cmdTid_be16,
    afterResolve_of_lt s htid, sendRequest, State.emitB, State.drawn_txB]
  rfl

/-- Settles O45: in each case RESOLVE answers an error (`resolve_error`). -/
theorem issueStorageErrors : Obligations.IssueStorageErrors := by
  intro s i mode tid hi
  rw [exec_commandRow hi]
  refine ⟨fun hout => ?_, fun htid hunusable => ?_⟩
  · rw [issue_of_idOutOfRange (by rwa [cmdTid_be16])]
  · have hresolve : ∃ e, resolve s (cmdTid (be16 mode tid)) = .error e := by
      rw [cmdTid_be16]
      refine resolve_error s tid fun _ => ?_
      obtain hread | habsent | hlong := hunusable
      · exact .inl hread
      · exact .inr (Nat.lt_of_lt_of_eq (by decide) habsent.symm)
      · exact .inr hlong
    rw [issue_of_error hresolve, cmdTid_be16, afterResolve_of_lt s htid]

/-- Four header bytes and at most 95 of a template (44_sp_link.md R302, R305). -/
theorem length_requestBody_le (cfg : Params) {payload : List Byte} (hlen : payload.length ≤ 95) :
    (requestBody cfg payload).length ≤ 99 := by
  simp only [requestBody, List.length_append, List.length_cons, List.length_nil]
  omega

theorem length_stuffBytes_requestBody_le (cfg : Params) {payload : List Byte} (hlen : payload.length ≤ 95) :
    (stuffBytes (requestBody cfg payload)).length ≤ 198 :=
  (length_stuffBytes_le _).trans (Nat.mul_le_mul_left 2 (length_requestBody_le cfg hlen))

/-- With the decided SP_TX_MAX every request fits, so no issue writes the bank (44_sp_link.md R305). -/
theorem issue_bank {s : State} (hmax : s.cfg.spTxMax = 512) (c : Word) : (issue c s).bank = s.bank := by
  have hafter : (afterResolve s (cmdTid c)).bank = s.bank := by rw [afterResolve_eq]
  cases hresolve : resolve s (cmdTid c) with
  | error e => rw [issue_of_error ⟨e, hresolve⟩, hafter]
  | ok payload =>
    have hstuffed := length_stuffBytes_requestBody_le s.cfg (length_resolve s _ payload hresolve)
    rw [issue_of_fits hresolve (by omega)]
    exact hafter

/-- Settles O46: the failing form is `issue_of_capacity`, and the sizes rule it out (`issue_bank`). -/
theorem issueCapacity : Obligations.IssueCapacity := by
  rintro s i mode tid htid _ _ hi rfl rfl
  rw [exec_commandRow hi]
  refine ⟨fun hread hlen hlong => ?_, fun hlen => ?_, fun hmax => ⟨_, rfl, issue_bank hmax _⟩⟩
  · rw [issue_of_capacity (resolve_be16_ok mode htid hread hlen) hlong, cmdTid_be16, afterResolve_of_lt s htid,
      State.abandonSp, State.setStatus, State.drawn_cfg, State.setReg, State.drawn_bank]
    rfl
  · have hpayload := (List.length_take_le _ ((s.template .req ⟨tid.toNat, htid⟩).drop 1)).trans hlen
    exact ⟨length_requestBody_le s.cfg hpayload, length_stuffBytes_requestBody_le s.cfg hpayload⟩

/-! ## SP_POLL and SP_REPEAT_DUE -/

/-- A command word's row issues it; the sentinel's id is over 41, so there too nothing happens (30_encoding.md R119). -/
theorem exec_decodeCommand (c : Word) (s : State) : exec (decodeCommand c) s = .next (issue c s) := by
  by_cases hsentinel : c = Config.sentinel
  · subst hsentinel
    rw [issue_of_idOutOfRange (by decide)]
    rfl
  · rw [decodeCommand, if_neg hsentinel]
    have hword : be16 (cmdMode c) (cmdTid c) = c := be16_hi8_lo8 c
    by_cases hmode : cmdMode c = 0xFF#8
    · rw [if_pos hmode, exec_commandRow (.inr ⟨hmode, rfl⟩), hword]
    · rw [if_neg hmode, exec_commandRow (.inl rfl), hword]

theorem issue_cfg (c : Word) (s : State) : (issue c s).cfg = s.cfg := by rw [(issue_reach c s).rest]

/-- Settles O42: the two branches of `poll`, and ISSUE keeps the parameters that say where CMD_REG is. -/
theorem pollIssuesAndConsumes : Obligations.PollIssuesAndConsumes := by
  intro s
  refine ⟨fun hnone => congrArg Host.Outcome.next (poll_sentinel s hnone), fun hpending => ?_⟩
  refine ⟨issue s.cmd s, exec_decodeCommand s.cmd s, ?_⟩
  rw [exec, execSpPoll, poll_command s hpending, State.setCmd, State.setReg, issue_cfg]

/-- Settles O43: what `poll_reach` says of the registers. -/
theorem pollLeavesSentinel : Obligations.PollLeavesSentinel := by
  intro s
  obtain ⟨hreach, hsentinel⟩ := poll_reach s
  refine ⟨poll s, rfl, hsentinel, fun a ha hcmd hstatus => ?_⟩
  by_contra hne
  exact (hreach.regs a ha hne).elim hcmd hstatus

/-- SP_REPEAT_DUE leaves CMD_REG, as the only register in its reach is STATUS_REG (44_sp_link.md R308). -/
theorem repeatLast_cmd {s : State} (hdif : s.cfg.cmdReg ≠ s.cfg.statusReg) : (repeatLast s).cmd = s.cmd := by
  have hreach := repeatLast_reach s
  rw [State.cmd, congrArg State.cfg hreach.rest]
  by_contra hne
  exact hdif (Fin.ext (hreach.regs _ (by omega) hne))

/-- Settles O47: the two ends of `repeatLast` (`repeatLast_cases`). -/
theorem repeatReissues : Obligations.RepeatReissues := by
  intro s
  refine ⟨fun c hnone hlast => ?_, fun hidle => ?_, fun hdif => ⟨repeatLast s, rfl, repeatLast_cmd hdif⟩⟩
  · rw [exec_decodeCommand, exec, execSpRepeatDue, repeatLast, hlast]
    exact congrArg Host.Outcome.next (if_pos hnone)
  · obtain ⟨c, hlast, hnone, -⟩ | ⟨-, heq⟩ := repeatLast_cases s
    · exact absurd hidle (not_or.mpr ⟨not_not_intro hnone, by simp [hlast]⟩)
    · rw [exec, execSpRepeatDue, heq]

end Sys2Proof.Machine
end

section
/-! PROOFS. No error stops the block (60_exceptions.md R400, R410): the one fault is HOST_TMPL_WR's on a record of another
size, and neither a well-formed row nor a decoded one has such a record. -/

namespace Sys2Proof.Machine

/-- Every row answers a next state, as long as a template write has a whole record. -/
theorem exec_completes {i : Instr} (hrecord : ∀ ns id bytes, i = .hostTmplWr ns id bytes → bytes.length = 96)
    (s : State) : ∃ t, exec i s = .next t := by
  cases i with
  | hostTmplWr ns id bytes => exact ⟨_, if_pos (hrecord ns id bytes rfl)⟩
  | _ => exact ⟨_, rfl⟩

/-- Settles O6: a well-formed template write has a whole record (30_encoding.md R121), and every other row answers. -/
theorem everyInstructionCompletes : Obligations.EveryInstructionCompletes := by
  intro i s hwf
  refine exec_completes ?_ s
  rintro ns id bytes rfl
  exact of_decide_eq_true hwf

/-- Settles O7: a delivery that is no row is abandoned in a next state, one that is a row runs it, and the decoder gives
no template write without a whole record (`decode_hostTmplWr`). -/
theorem noErrorStops : Obligations.NoErrorStops := by
  obtain ⟨hrow, hidle⟩ := stepRunsDelivery
  intro s
  cases hinbox : s.inbox with
  | nil => exact ⟨s, hidle s hinbox⟩
  | cons p rest =>
    cases hdecode : decode p with
    | error e => exact ⟨_, step_of_decode_error hinbox hdecode⟩
    | ok i =>
      rw [hrow s p rest i hinbox hdecode]
      refine exec_completes ?_ _
      rintro ns id bytes rfl
      exact decode_hostTmplWr hdecode

end Sys2Proof.Machine
end

section
/-! PROOFS. RESET, and a frame whose CRC field is an escape pair (70_reset_and_hazards.md R450, R466): the pair is read
as one more marker after the frame's own tokens, which either spoils the verdict of DESTUFF or leaves a CRC field that
is too short or misread. -/

namespace Sys2Proof.Machine

/-- Settles O15: the bank by its two laws at reset, every other field by `resetBlock`. -/
theorem resetEvent : Obligations.ResetEvent := fun s =>
  ⟨resetBlock s, rfl, bankAtReset_cmd _ _, bankAtReset_other _ _, rfl⟩

/-! ## The receive checks on a frame and whatever tokens follow it -/

section TokensAfterFrame

variable {raw : List Byte} {p : SpFields} {us : List Token} (hlen : 11 ≤ raw.length)
  (htokens : tokens (stripSync raw) = frameTokens p ++ us)
include hlen htokens

/-- An escaped STX or ETX after the frame's own is one too many (40_codec.md R154, 42_sp_parser.md R205). -/
theorem parseSpFrame_marker_after_frame (hmarker : .esc .stx ∈ us ∨ .esc .etx ∈ us) :
    parseSpFrame raw = .error .badMarkers := by
  apply parseSpFrame_badMarkers hlen
  by_contra hmarks
  obtain ⟨hstx, hetx, -⟩ := (destuff_marks_ne_none_iff _).mp hmarks
  obtain ⟨hown_stx, hown_etx⟩ := count_frameTokens p
  rw [htokens, List.count_append] at hstx hetx
  obtain hmem | hmem := hmarker <;> have := List.count_pos_iff.mpr hmem <;> omega

/-- Otherwise the frame's own markers stand, and the logical bytes after its ETX are judged as its CRC field
(42_sp_parser.md R206). -/
theorem parseSpFrame_no_marker_after_frame (hplain : ¬(.esc .stx ∈ us ∨ .esc .etx ∈ us)) :
    parseSpFrame raw =
      parseLogical (logicalFrame p ++ us.map tokenByte) (5 + p.ext.length)
        (6 + p.ext.length + p.payload.length) := by
  obtain ⟨hstx, hetx⟩ := not_or.mp hplain
  have hmarks := destuff_frame _ p us htokens (List.count_eq_zero.mpr hstx) (List.count_eq_zero.mpr hetx)
  have hout : (destuff (stripSync raw)).out = logicalFrame p ++ us.map tokenByte := by
    rw [destuff_out, htokens, List.map_append, map_tokenByte_frameTokens]
  rw [parseSpFrame_marked hlen hmarks, hout]

end TokensAfterFrame

/-- One logical byte after ETX is no CRC field (42_sp_parser.md R206). -/
theorem parseLogical_frame_short (p : SpFields) (b : Byte) (stx : Nat) :
    parseLogical (logicalFrame p ++ [b]) stx (6 + p.ext.length + p.payload.length) = .error .crcMissing := by
  apply parseLogical_crcMissing
  rw [List.length_append, length_logicalFrame, List.length_singleton]
  omega

/-- A CRC field that begins with another byte than the frame's CRC does not match it (42_sp_parser.md R207). -/
theorem parseLogical_frame_wrongHigh (p : SpFields) {h : Byte} (hwrong : hi8 (crcSp (logicalFrame p)) ≠ h) (l : Byte)
    (rest : List Byte) (stx : Nat) :
    parseLogical (logicalFrame p ++ h :: l :: rest) stx (6 + p.ext.length + p.payload.length) = .error .badCrc := by
  have hend : 6 + p.ext.length + p.payload.length + 1 = (logicalFrame p).length := by
    rw [length_logicalFrame]
    omega
  apply parseLogical_badCrc
  · rw [List.length_append, List.length_cons, List.length_cons]
    omega
  · rw [hend, show 6 + p.ext.length + p.payload.length + 2 = (logicalFrame p).length + 1 by omega, List.take_left]
    exact fun hcrc => hwrong (by simp [hcrc, byteAt])

/-! ## The escape pair in the CRC field -/

theorem tokens_ne_nil {buf : List Byte} (hbuf : buf ≠ []) : tokens buf ≠ [] := fun h =>
  hbuf (by rw [← flatMap_tokenWire_tokens buf, h, List.flatMap_nil])

theorem markerByte_ne_dle (m : Marker) : markerByte m ≠ Config.dle := by
  cases m <;> decide

/-- The markers a receiver counts beyond the frame's own: the pair, and those of the bytes after it. -/
theorem marker_mem_escapePair_iff (m : Marker) (ts : List Token) :
    (.esc .stx ∈ Token.esc m :: ts ∨ .esc .etx ∈ Token.esc m :: ts) ↔
      m = .stx ∨ m = .etx ∨ .esc .stx ∈ ts ∨ .esc .etx ∈ ts := by
  simp only [List.mem_cons, Token.esc.injEq, eq_comm (b := m)]
  tauto

/-- Settles O36: the pair is read as one token. It or a token of the tail is a marker too many; else its logical byte
stands alone after ETX, or stands where the CRC's high byte should, which is a DLE and so no marker. -/
theorem escapePairCrcRejected : Obligations.EscapePairCrcRejected := by
  intro s p m tail hheader hpayload hhigh hlow hovf hrx
  have hlen : 11 ≤ s.spRx.length := by
    rw [hrx, List.length_append]
    exact Nat.le_add_right_of_le (Nat.not_lt.mp (spMinRaw_le_spWire p))
  have htokens : tokens (stripSync s.spRx) = frameTokens p ++ .esc m :: tokens tail := by
    rw [hrx, tokens_spWire p hheader hpayload, tokens_crcSpField_esc _ m hhigh hlow]
  have hreject {e : SpError} := exec_spSilence_of_parse_error (e := e) hovf (ne_nil_of_spMinRaw_le hlen)
  split
  case isTrue hmarker =>
    exact hreject (parseSpFrame_marker_after_frame hlen htokens ((marker_mem_escapePair_iff m _).mpr hmarker))
  case isFalse hplain =>
    have hparse := parseSpFrame_no_marker_after_frame hlen htokens (mt (marker_mem_escapePair_iff m _).mp hplain)
    split
    case isTrue hnil =>
      rw [hnil] at hparse
      exact hreject (hparse.trans (parseLogical_frame_short p _ _))
    case isFalse hne =>
      obtain ⟨t, ts, htail⟩ := List.exists_cons_of_ne_nil (tokens_ne_nil hne)
      have hwrong : hi8 (crcSp (logicalFrame p)) ≠ markerByte m := hhigh ▸ (markerByte_ne_dle m).symm
      rw [htail] at hparse
      exact hreject (hparse.trans (parseLogical_frame_wrongHigh p hwrong _ _ _))

end Sys2Proof.Machine
end
